-- ==== Sys2Proof/Word.lean ====
section
/-! DEFINITION. The words of the block and the small types its formats are made of (00_scope.md R11, 30_encoding.md R100-R103). -/

namespace Sys2Proof

/-- A byte (00_scope.md R11). -/
abbrev Byte := BitVec 8

/-- A 16-bit length, position or counter (00_scope.md R10). -/
abbrev Half := BitVec 16

/-- A 64-bit word: a command descriptor or a response (30_encoding.md R100). -/
abbrev Word := BitVec 64

/-- The two addressing modes (30_encoding.md R103). -/
inductive Mode where
  | direct
  | multiplexed
  deriving DecidableEq, Repr

/-- The MODE bit of a mode: 0 Direct, 1 Multiplexed (30_encoding.md R103). -/
def Mode.bit : Mode → BitVec 1
  | .direct => 0#1
  | .multiplexed => 1#1

/-- The four operations, as CUR.OP names them (10_state.md R22, 30_encoding.md R102). -/
inductive Op where
  | write
  | read
  | burstWrite
  | burstRead
  deriving DecidableEq, Repr

/-- The 2-bit code CUR.OP holds (10_state.md R22). -/
def Op.code : Op → BitVec 2
  | .write => 0#2
  | .read => 1#2
  | .burstWrite => 2#2
  | .burstRead => 3#2

/-- The two burst operations, the ones with a length N (42_burst.md). -/
def Op.isBurst : Op → Bool
  | .write => false
  | .read => false
  | .burstWrite => true
  | .burstRead => true

/-- The operand fields of a command descriptor (30_encoding.md R101): every command carries all of them, and a field it does not
use is latched all the same (30_encoding.md R105). -/
structure Fields where
  mode  : Mode
  mux   : Byte
  addr  : Byte
  wdata : Byte
  n     : Half
  deriving DecidableEq, Repr

end Sys2Proof
end

