-- ==== Sys2Proof/Syntax.lean ====
section
/-! DEFINITION. The instructions: the four commands of spec/opcode_table.json (00_scope.md R3). -/

namespace Sys2Proof

/-- One constructor per row of spec/opcode_table.json. The addressing mode is an operand (30_encoding.md R103). -/
inductive Instr where
  | write (f : Fields)        -- WRITE, 41_single_register.md R180
  | read (f : Fields)         -- READ, 41_single_register.md R181
  | burstWrite (f : Fields)   -- BURST_WRITE, 42_burst.md R204
  | burstRead (f : Fields)    -- BURST_READ, 42_burst.md R205
  deriving DecidableEq, Repr

/-- The operation of a command (30_encoding.md R102). -/
def Instr.op : Instr → Op
  | .write _ => .write
  | .read _ => .read
  | .burstWrite _ => .burstWrite
  | .burstRead _ => .burstRead

/-- The operand fields of a command (30_encoding.md R101). -/
def Instr.fields : Instr → Fields
  | .write f => f
  | .read f => f
  | .burstWrite f => f
  | .burstRead f => f

end Sys2Proof
end

