-- ==== Sys2Proof/WellFormed.lean ====
section
/-! DEFINITION. When a 64-bit value is a command descriptor: the three checks of 30_encoding.md R104 and R118. The types of `Fields`
hold every operand in range, so every `Instr` is well-formed; what can be ill-formed is the descriptor. -/

namespace Sys2Proof

/-- OP is one of the four operations: OP = 4..7 is illegal (30_encoding.md R118). -/
def opLegal (d : Word) : Bool := d.extractLsb' 0 3 < 4#3

/-- RSVD0 is 0 (30_encoding.md R101, R118). -/
def rsvd0Zero (d : Word) : Bool := d.extractLsb' 4 4 == 0#4

/-- RSVD1 is 0 (30_encoding.md R101, R118). -/
def rsvd1Zero (d : Word) : Bool := d.extractLsb' 48 16 == 0#16

/-- The value spells a command (30_encoding.md R104). -/
def descriptorWellFormed (d : Word) : Bool := opLegal d && rsvd0Zero d && rsvd1Zero d

end Sys2Proof
end

