-- ==== Sys2Proof/Decode.lean ====
section
/-! DEFINITION. The command descriptor: decoding, total over all 2^64 values (30_encoding.md R104), and encoding (30_encoding.md R101,
R119). The decoder also answers the host's `decodeTableWord`. -/

namespace Sys2Proof

/-- Why a descriptor is not a command (30_encoding.md R104); both end in an architected INVALID_ARGUMENT response
(60_exceptions.md R241), never in a fault. -/
inductive DecodeError where
  | reservedOp    -- SUBCODE 1 RESERVED_OP
  | reservedBits  -- SUBCODE 2 RESERVED_BITS
  deriving DecidableEq, Repr

/-- The MODE a bit selects (30_encoding.md R103). -/
def Mode.ofBit (b : BitVec 1) : Mode := if b = 0#1 then .direct else .multiplexed

/-- The operand fields of a descriptor (30_encoding.md R101). -/
def fieldsOf (d : Word) : Fields where
  mode  := Mode.ofBit (d.extractLsb' 3 1)
  mux   := d.extractLsb' 8 8
  addr  := d.extractLsb' 16 8
  wdata := d.extractLsb' 24 8
  n     := d.extractLsb' 32 16

/-- The command with operation code OP and the fields given; none for OP = 4..7 (30_encoding.md R102). -/
def commandOf (op : BitVec 3) (f : Fields) : Option Instr :=
  if op = 0#3 then some (.write f)
  else if op = 1#3 then some (.read f)
  else if op = 2#3 then some (.burstWrite f)
  else if op = 3#3 then some (.burstRead f)
  else none

/-- Decode, with the checks in the order of 30_encoding.md R104: the reserved OP first, then the reserved bits. -/
def decode (d : Word) : Except DecodeError Instr :=
  match commandOf (d.extractLsb' 0 3) (fieldsOf d) with
  | none => .error .reservedOp
  | some i => if rsvd0Zero d && rsvd1Zero d then .ok i else .error .reservedBits

/-- The descriptor with the fields placed as 30_encoding.md R119 writes them:
`d = {16'b0, N, WDATA, ADDR, MUX, 4'b0, MODE, OP}`. -/
def placeFields (op : BitVec 3) (f : Fields) : Word :=
  0#16 ++ f.n ++ f.wdata ++ f.addr ++ f.mux ++ 0#4 ++ f.mode.bit ++ op

/-- The descriptor of a command (30_encoding.md R101, R102). -/
def encode (i : Instr) : Word := placeFields (i.op.code.setWidth 3) i.fields

/-- The instruction the decoder reads from the table's numbering of its bits: a descriptor is one 64-bit value with no byte order
(20_memory.md R67(c)), bit 0 the least significant. Every bit at `nbits` and above is 0. -/
def decodeTableWord (nbits w : Nat) : Option Instr := (decode (BitVec.ofNat 64 (w % 2 ^ nbits))).toOption

end Sys2Proof
end

