-- ==== Sys2Proof/Config.lean ====
section
/-! DEFINITION. The build-time parameters of the block and the values the spec fixes (00_scope.md R9). -/

namespace Sys2Proof.Config

/-- BURST_WRITE_STATUS: which burst-write chunk replies must carry the success marker (00_scope.md R9). -/
inductive BurstWriteStatus where
  | none
  | last
  | every
  deriving DecidableEq, Repr

/-- The three parameters the model takes as arguments (00_scope.md R9). They stand in `State.params`, which no step writes.
DESIGN CHOICE (log 2), safe: a statement about every state is one about every legal choice of them. -/
structure Params where
  chunkMax         : Nat
  bufSize          : Nat
  burstWriteStatus : BurstWriteStatus
  deriving DecidableEq, Repr

/-- The legal ranges of the parameters (00_scope.md R9). -/
abbrev Params.legal (p : Params) : Prop :=
  (6 ≤ p.chunkMax ∧ p.chunkMax ≤ 65535) ∧ (1 ≤ p.bufSize ∧ p.bufSize ≤ 65530)

/-- The values of the table of 00_scope.md R9. -/
def defaults : Params := ⟨1024, 4096, .last⟩

/-- STATUS_OFFSET (00_scope.md R9). -/
def statusOffset : Nat := 0

/-- SUCCESS_MARKER (00_scope.md R9). -/
def successMarker : Byte := 0xFF#8

/-- FILL (00_scope.md R9). -/
def fill : Byte := 0x00#8

end Sys2Proof.Config
end

