-- ==== Sys2Proof/Machine/State.lean ====
section
/-! DEFINITION. Everything the spec gives the machine to hold (10_state.md), the inputs it samples, and the agents around it
(00_scope.md R7) as plain data, so that one deterministic step can run all three. -/

namespace Sys2Proof.Machine

open Sys2Proof.Config

/-- STATE, the transaction state machine (10_state.md R20). The codes 6 and 7 are never held, so the type has no name for them. -/
inductive Phase where
  | idle
  | frameBuilt
  | sent
  | awaitingReply
  | validated
  | failed
  deriving DecidableEq, Repr

/-- CUR, the command latch (10_state.md R22). -/
structure Cur where
  op    : Op
  mode  : Mode
  mux   : Byte
  addr  : BitVec 7
  w     : BitVec 1
  wdata : Byte
  n     : Half
  deriving DecidableEq, Repr

/-- HDR[0..4], the header bytes of the current logical frame (10_state.md R24). -/
structure Hdr where
  b0 : Byte
  b1 : Byte
  b2 : Byte
  b3 : Byte
  b4 : Byte
  deriving DecidableEq, Repr

/-- A byte array: (index, byte) pairs with strictly rising indexes. An index that is not listed has no value
(20_memory.md R66), so no entry can equal what an unlisted index reads as. -/
abbrev Mem := List Host.Cell

/-- Strictly rising indexes, the one form a byte array has. -/
abbrev Mem.wf (m : Mem) : Prop := m.Pairwise (fun c d => c.1 < d.1)

/-- The byte arrays of the block, by name (20_memory.md R60). -/
inductive Space where
  | txbuf
  | rxbuf
  | stg
  | txseg
  | rxseg
  deriving DecidableEq, Repr

/-- RESP.RESULT (60_exceptions.md R240). The codes 6 and 7 are never written. -/
inductive Result where
  | ok
  | invalidArgument
  | transportError
  | shortResponse
  | remoteNack
  | resourceError
  deriving DecidableEq, Repr

/-- Diagnostic events (60_exceptions.md R263), with the values the two arguments of a record are made of. -/
inductive DiagEvent where
  | addrMasked (raw : Byte)
  | frameBuilt (k s : Half)
  | ioError (sub : BitVec 4) (k : Half)
  | shortResponse (sub : BitVec 4) (k : Half)
  | remoteNack (code : Byte) (k : Half)
  deriving DecidableEq, Repr

/-- What the HOST can do (00_scope.md R7, 10_state.md R32, 20_memory.md R61 and R62). -/
inductive HostOp where
  | issue (d : Word)               -- present a descriptor on the command port
  | takeResponse                   -- complete the response handshake
  | writeTx (i : Half) (v : Byte)  -- HostWriteTx(i, v)
  | readRx (i : Half)              -- HostReadRx(i)
  | readStatus
  | readResp
  deriving DecidableEq, Repr

/-- What the HOST's ports give it (10_state.md R31, R32; 20_memory.md R62; 40_transaction.md R154). -/
inductive HostAnswer where
  | response (resp : Word)  -- the value the response handshake delivers
  | rxByte (v : Byte)
  | status (v : Byte)
  | resp (v : Word)         -- a read of RESP outside the handshake
  deriving DecidableEq, Repr

/-- The HOST: what it has still to do, in its own order (20_memory.md R72(f)), and what its ports have answered, oldest first.
DESIGN CHOICE (log 4, log 14). -/
structure HostAgent where
  program : List HostOp
  answers : List HostAnswer
  deriving DecidableEq, Repr

/-- An answer to `TxSend` (40_transaction.md R146). -/
inductive SendAnswer where
  | count (c : Nat)
  | err
  deriving DecidableEq, Repr

/-- An answer to `RxRecv` (40_transaction.md R149). -/
inductive RecvAnswer where
  | bytes (r : List Byte)
  | err
  deriving DecidableEq, Repr

/-- A fault of the reference peer's script (20_memory.md R82). -/
inductive PeerFault where
  | sendShort (c : Nat)
  | sendErr
  | recvErr
  | replyLen (m : Nat)
  | status (v : Byte)
  deriving DecidableEq, Repr

/-- A bank of the reference peer's byte strings: (key, string) pairs, keys strictly rising, no empty string; a key that is not
listed holds the empty string (20_memory.md R76). -/
abbrev Bank := List (Nat × List Byte)

/-- The reference peer (20_memory.md R76, R82): its two banks, its receive position g in the current logical frame, the header
bytes of that frame, the reply the FRAMER has still to read, the number of the next segment of the run, and the fault script. -/
structure Peer where
  seqD   : Bank
  seqM   : Bank
  pos    : Nat
  head   : List Byte
  reply  : Option (List Byte)
  segNo  : Nat
  faults : List (Nat × PeerFault)
  deriving DecidableEq, Repr

/-- The TRANSPORT: any answers whatever, given as the lists of those still to come (00_scope.md R8; a list that has run out is a
TRANSPORT that never answers, log 5), or the reference peer of 20_memory.md R76-R82. -/
inductive Transport where
  | free (sends : List SendAnswer) (recvs : List RecvAnswer)
  | peer (p : Peer)
  deriving DecidableEq, Repr

/-- Whose turn the next step is, or which input event it is (00_scope.md R7, 10_state.md R33, 70_reset_and_hazards.md R280).
DESIGN CHOICE (log 3). -/
inductive Turn where
  | host
  | framer
  | transport
  | link (v : Bool)
  | reset
  deriving DecidableEq, Repr

/-- The machine. The fields from `phase` to `events` are the FRAMER (10_state.md R20-R37, 60_exceptions.md R262); `linkUp` is its
input (10_state.md R33); the others are the parameters and the agents around it (10_state.md R40). -/
structure State where
  params     : Params
  phase      : Phase
  cur        : Cur
  diag       : BitVec 1
  hdr        : Hdr
  hReg       : BitVec 3
  tReg       : Half
  kReg       : Half
  remReg     : Half
  sReg       : Half
  chunksDone : Half
  resp       : Word
  txbuf      : Mem
  rxbuf      : Mem
  stg        : Mem
  txseg      : Mem
  rxseg      : Mem
  events     : List DiagEvent
  linkUp     : Bool
  host       : HostAgent
  transport  : Transport
  wire       : List (List Byte)
  turns      : List Turn
  deriving DecidableEq, Repr

/-- Why the machine stops. Each is a model fault of 60_exceptions.md R260; all three are safe: a run that meets one proves nothing. -/
inductive Fault where
  /-- The FRAMER read a byte with no value (20_memory.md R66, 00_scope.md R12): of TXBUF while it builds a BURST_WRITE segment; of
  the hidden arrays only in states no run reaches (log 17). Raised by building, sending, validating and completing. Safe. -/
  | framerNoValue (sp : Space)
  /-- The HOST read an RXBUF byte with no value (20_memory.md R66). Raised by HostReadRx. Safe. -/
  | hostNoValue
  /-- The HOST gave an index at or above BUF_SIZE (20_memory.md R65). Raised by HostWriteTx and HostReadRx. Safe. -/
  | hostAccessError (sp : Space)
  deriving DecidableEq, Repr

/-- Why the model gives an instruction no meaning. The block itself refuses nothing (60_exceptions.md R260). -/
inductive Refusal where
  /-- Raised by an arm of `exec` whose instruction has no meaning yet; no arm does. Safe. -/
  | notModelled (mnemonic : String)
  deriving DecidableEq, Repr

/-- CUR after reset (10_state.md R41). -/
def Cur.zero : Cur := ⟨.write, .direct, 0#8, 0#7, 0#1, 0#8, 0#16⟩

/-- HDR after reset, and after every entry to IDLE (10_state.md R41, 40_transaction.md R155). -/
def Hdr.zero : Hdr := ⟨0#8, 0#8, 0#8, 0#8, 0#8⟩

/-- The machine right after reset (10_state.md R41). The FRAMER's fields are that rule's values and `params` those of
00_scope.md R9. `linkUp` and the agents have no reset value in the spec: DESIGN CHOICE (log 3-6, log 11, log 14), `linkUp` unsafe. -/
def State.reset : State where
  params     := defaults
  phase      := .idle
  cur        := Cur.zero
  diag       := 0#1
  hdr        := Hdr.zero
  hReg       := 0#3
  tReg       := 0#16
  kReg       := 0#16
  remReg     := 0#16
  sReg       := 0#16
  chunksDone := 0#16
  resp       := 0#64
  txbuf      := []
  rxbuf      := []
  stg        := []
  txseg      := []
  rxseg      := []
  events     := []
  linkUp     := true
  host       := ⟨[], []⟩
  transport  := .free [] []
  wire       := []
  turns      := []

end Sys2Proof.Machine
end

