-- ==== Sys2Proof/Machine/Flags.lean ====
section
/-! DEFINITION. The status bits of the block: the response word, STATUS, RESP_VALID, the status check of a reply, the checks before
I/O and the records of the diagnostic port. The block has no condition codes (10_state.md R39). -/

namespace Sys2Proof.Machine

open Sys2Proof.Config

/-- The 3-bit code of STATE (10_state.md R20). -/
def Phase.code : Phase → BitVec 3
  | .idle => 0#3
  | .frameBuilt => 1#3
  | .sent => 2#3
  | .awaitingReply => 3#3
  | .validated => 4#3
  | .failed => 5#3

/-- A transaction is under way: STATE is FRAME_BUILT, SENT or AWAITING_REPLY (20_memory.md R75). -/
def Phase.busy : Phase → Bool
  | .idle => false
  | .frameBuilt => true
  | .sent => true
  | .awaitingReply => true
  | .validated => false
  | .failed => false

/-- A response is offered: STATE is VALIDATED or FAILED (10_state.md R29). -/
def Phase.done : Phase → Bool
  | .idle => false
  | .frameBuilt => false
  | .sent => false
  | .awaitingReply => false
  | .validated => true
  | .failed => true

/-- The RESULT code (60_exceptions.md R240). -/
def Result.code : Result → BitVec 3
  | .ok => 0#3
  | .invalidArgument => 1#3
  | .transportError => 2#3
  | .shortResponse => 3#3
  | .remoteNack => 4#3
  | .resourceError => 5#3

/-- The response word (10_state.md R28): bits [63:48] and [31:24] are always 0. -/
def packResp (r : Result) (diag : BitVec 1) (sub : BitVec 4) (nack rdata : Byte) (chunks : Half) : Word :=
  0#16 ++ chunks ++ 0#8 ++ rdata ++ nack ++ sub ++ diag ++ r.code

/-- RESP.RESULT (10_state.md R28). -/
def respResult (w : Word) : BitVec 3 := w.extractLsb' 0 3

/-- RESP.DIAG (10_state.md R28). -/
def respDiag (w : Word) : BitVec 1 := w.extractLsb' 3 1

/-- RESP.SUBCODE (10_state.md R28). -/
def respSubcode (w : Word) : BitVec 4 := w.extractLsb' 4 4

/-- RESP.NACK_CODE (10_state.md R28). -/
def respNackCode (w : Word) : Byte := w.extractLsb' 8 8

/-- RESP.RDATA (10_state.md R28). -/
def respRdata (w : Word) : Byte := w.extractLsb' 16 8

/-- RESP.CHUNKS_DONE (10_state.md R28). -/
def respChunksDone (w : Word) : Half := w.extractLsb' 32 16

/-- RESP_VALID (10_state.md R29), derived from STATE. -/
def respValid (s : State) : BitVec 1 := if s.phase.done then 1#1 else 0#1

/-- STATUS (10_state.md R31). -/
def statusWord (s : State) : Byte :=
  0#3 ++ (if s.linkUp then 1#1 else 0#1) ++ respValid s ++ s.phase.code

/-- Whether the reply to a segment must carry the success marker (40_transaction.md R158); `last` says that the segment ends the
logical frame. -/
def statusRequired (p : BurstWriteStatus) (op : Op) (last : Bool) : Bool :=
  match op with
  | .write => true
  | .read => true
  | .burstWrite =>
    match p with
    | .none => false
    | .last => last
    | .every => true
  | .burstRead => false

/-- Checks 3 to 5 of 40_transaction.md R142, in that order: what a well-formed descriptor can still fail. Checks 1 and 2 are the
decoder's. -/
def precheck (op : Op) (f : Fields) (s : State) : Option (Result × BitVec 4) :=
  if op.isBurst ∧ f.n = 0#16 then some (.invalidArgument, 3#4)
  else if op.isBurst ∧ s.params.bufSize < f.n.toNat then some (.resourceError, 1#4)
  else if s.linkUp = false then some (.transportError, 1#4)
  else none

/-- The event that entering FAILED emits; none for INVALID_ARGUMENT and RESOURCE_ERROR (60_exceptions.md R250). -/
def failureEvents (r : Result) (sub : BitVec 4) (v : Byte) (k : Half) : List DiagEvent :=
  match r with
  | .ok => []
  | .invalidArgument => []
  | .transportError => [.ioError sub k]
  | .shortResponse => [.shortResponse sub k]
  | .remoteNack => [.remoteNack v k]
  | .resourceError => []

/-- The KIND of an event record (60_exceptions.md R263). -/
def DiagEvent.kind : DiagEvent → Byte
  | .addrMasked _ => 1#8
  | .frameBuilt _ _ => 2#8
  | .ioError _ _ => 3#8
  | .shortResponse _ _ => 4#8
  | .remoteNack _ _ => 5#8

/-- ARG0 of an event record (60_exceptions.md R263). -/
def DiagEvent.arg0 : DiagEvent → Half
  | .addrMasked raw => raw.setWidth 16
  | .frameBuilt k _ => k
  | .ioError sub _ => sub.setWidth 16
  | .shortResponse sub _ => sub.setWidth 16
  | .remoteNack code _ => code.setWidth 16

/-- ARG1 of an event record (60_exceptions.md R263). -/
def DiagEvent.arg1 : DiagEvent → Half
  | .addrMasked _ => 0#16
  | .frameBuilt _ s => s
  | .ioError _ k => k
  | .shortResponse _ k => k
  | .remoteNack _ k => k

/-- An event record as the port carries it: the KIND, ARG0, ARG1 of 60_exceptions.md R263, KIND in the highest bits. -/
def DiagEvent.record (e : DiagEvent) : BitVec 40 := e.kind ++ e.arg0 ++ e.arg1

end Sys2Proof.Machine
end

