-- ==== Sys2Proof/Machine/Ops.lean ====
section
/-! DEFINITION. The named operations: byte arrays (20_memory.md), entry into FAILED (60_exceptions.md R250), the return from it
(40_transaction.md R154) and reset (70_reset_and_hazards.md R280). -/

namespace Sys2Proof.Machine

open Sys2Proof.Config

/-- MemRead of one byte (00_scope.md R12): `none` is no value. -/
def Mem.read : Mem → Nat → Option Byte
  | [], _ => none
  | c :: m, i => if c.1 = i then some c.2 else Mem.read m i

/-- Bytes as entries of a byte array, the first at index `i`. -/
def Mem.cells : Nat → List Byte → Mem
  | _, [] => []
  | i, b :: bs => (i, b) :: Mem.cells (i + 1) bs

/-- MemWrite of the bytes `bs` at indexes `i`, `i + 1`, ... (00_scope.md R12): the canonical form is kept. -/
def Mem.writeRange (m : Mem) (i : Nat) (bs : List Byte) : Mem :=
  m.filter (fun c => c.1 < i) ++ Mem.cells i bs ++ m.filter (fun c => i + bs.length ≤ c.1)

/-- MemWrite of one byte (00_scope.md R12). -/
def Mem.write (m : Mem) (i : Nat) (v : Byte) : Mem := m.writeRange i [v]

/-- The `n` bytes from index `i` on, of a byte array with no entry below `i`. -/
def Mem.readRun : Mem → Nat → Nat → Option (List Byte)
  | _, _, 0 => some []
  | [], _, _ + 1 => none
  | c :: m, i, n + 1 => if c.1 = i then (Mem.readRun m (i + 1) n).map (c.2 :: ·) else none

/-- MemRead of the `n` bytes from index `i` on; `none` when one of them has no value. -/
def Mem.readRange (m : Mem) (i n : Nat) : Option (List Byte) := Mem.readRun (m.dropWhile (fun c => c.1 < i)) i n

/-- Every entry's index is below `size` (20_memory.md R60). -/
abbrev Mem.bounded (m : Mem) (size : Nat) : Prop := ∀ c ∈ m, c.1 < size

/-- HDR[g] (10_state.md R24), 0x00 past the five registers. -/
def Hdr.byte (h : Hdr) : Nat → Byte
  | 0 => h.b0
  | 1 => h.b1
  | 2 => h.b2
  | 3 => h.b3
  | 4 => h.b4
  | _ => 0#8

/-- HDR[0..4] in wire order (30_encoding.md R110). -/
def Hdr.toList (h : Hdr) : List Byte := [h.b0, h.b1, h.b2, h.b3, h.b4]

/-- `raise R(sub, v)`, the entry into FAILED (60_exceptions.md R250). -/
def raise (r : Result) (sub : BitVec 4) (v : Byte) (s : State) : State :=
  { s with
    resp   := packResp r s.diag sub (if r = .remoteNack then v else 0#8) 0#8 s.chunksDone
    events := s.events ++ failureEvents r sub v s.kReg
    phase  := .failed }

/-- The end of a successful transaction: RESP with RESULT = OK, and VALIDATED (40_transaction.md R152). -/
def finish (rdata : Byte) (s : State) : State :=
  { s with
    resp  := packResp .ok s.diag 0#4 0#8 rdata s.chunksDone
    phase := .validated }

/-- The entry to IDLE: STATE <- IDLE and ClearWorking (40_transaction.md R154, R155). -/
def enterIdle (s : State) : State :=
  { s with
    phase  := .idle
    hdr    := Hdr.zero
    hReg   := 0#3
    tReg   := 0#16
    kReg   := 0#16
    remReg := 0#16
    sReg   := 0#16
    txseg  := []
    rxseg  := []
    stg    := [] }

/-- What the HOST's ports give is added to what they have given. -/
def answerHost (a : HostAnswer) (s : State) : State :=
  { s with host := { s.host with answers := s.host.answers ++ [a] } }

/-- RespondAccept, the return from VALIDATED and from FAILED (40_transaction.md R154, 60_exceptions.md R253): the HOST receives RESP,
which stays readable. -/
def respondAccept (s : State) : State := enterIdle (answerHost (.response s.resp) s)

/-- An outstanding request is abandoned: no answer to it is delivered (70_reset_and_hazards.md R281). The reference peer drops the
reply it had ready; the answers a free TRANSPORT has still to give are to later requests. -/
def Transport.abandon : Transport → Transport
  | .free sends recvs => .free sends recvs
  | .peer p => .peer { p with reply := none }

/-- Reset, in any state (70_reset_and_hazards.md R280): every register and array of the FRAMER takes its value of 10_state.md R41,
the diagnostic port among them (log 7). The parameters, `link_up` and the agents are not FRAMER state and stay (log 8). -/
def applyReset (s : State) : State :=
  { State.reset with
    params    := s.params
    linkUp    := s.linkUp
    host      := s.host
    transport := s.transport.abandon
    wire      := s.wire
    turns     := s.turns }

end Sys2Proof.Machine
end

