-- ==== Sys2Proof/Machine/Operands.lean ====
section
/-! DEFINITION. What a command's operands become: the command latch, the header and the logical frame (30_encoding.md R105-R114). -/

namespace Sys2Proof.Machine

open Sys2Proof.Config

/-- The access flag W (30_encoding.md R102), `1 - d[0]` in 40_transaction.md R141. -/
def accessFlag : Op → BitVec 1
  | .write => 1#1
  | .read => 0#1
  | .burstWrite => 1#1
  | .burstRead => 0#1

/-- CUR as a command latches it (40_transaction.md R141): bit 7 of the address is masked off (30_encoding.md R106), and fields the
operation does not use are latched as given (30_encoding.md R105). -/
def latchCur (op : Op) (f : Fields) : Cur where
  op    := op
  mode  := f.mode
  mux   := f.mux
  addr  := f.addr.extractLsb' 0 7
  w     := accessFlag op
  wdata := f.wdata
  n     := f.n

/-- Bit 7 of the address as the caller gave it (30_encoding.md R106). -/
def addrBit7 (f : Fields) : BitVec 1 := f.addr.extractLsb' 7 1

/-- h = 4 + MODE (30_encoding.md R111). -/
def headerLen : Mode → Nat
  | .direct => 4
  | .multiplexed => 5

/-- The wire opcode (30_encoding.md R107): `zext_8` of MODE, one 0 bit and OP + 1 in three bits. -/
def wireOpcode (op : Op) (m : Mode) : Byte := (m.bit ++ 0#1 ++ (op.code.setWidth 3 + 1#3)).setWidth 8

/-- The address byte (30_encoding.md R108). -/
def addressByte (c : Cur) : Byte := c.w ++ c.addr

/-- The number of bytes after the header (30_encoding.md R109). -/
def bodyLen (op : Op) (n : Half) : Nat :=
  match op with
  | .write => 1
  | .read => 1
  | .burstWrite => n.toNat
  | .burstRead => n.toNat

/-- T, the length of the logical frame (30_encoding.md R109). -/
def frameLen (op : Op) (m : Mode) (n : Half) : Nat := headerLen m + bodyLen op n

/-- LEN_HI (30_encoding.md R109). -/
def lenHi (t : Half) : Byte := t.extractLsb' 8 8

/-- LEN_LO (30_encoding.md R109). -/
def lenLo (t : Half) : Byte := t.extractLsb' 0 8

/-- HDR[0..h) <- header(CUR, T) (30_encoding.md R110); in Direct mode HDR[4] keeps its value. -/
def header (c : Cur) (t : Half) (old : Hdr) : Hdr :=
  match c.mode with
  | .direct => { old with b0 := wireOpcode c.op .direct, b1 := lenHi t, b2 := lenLo t, b3 := addressByte c }
  | .multiplexed => ⟨wireOpcode c.op .multiplexed, lenHi t, lenLo t, c.mux, addressByte c⟩

/-- The serializer function: the request byte at logical position g; `none` is a TXBUF byte with no value (30_encoding.md R114). -/
def lbyte (s : State) (g : Nat) : Option Byte :=
  if g < s.hReg.toNat then some (s.hdr.byte g)
  else
    match s.cur.op with
    | .write => some s.cur.wdata
    | .read => some fill
    | .burstWrite => s.txbuf.read (g - s.hReg.toNat)
    | .burstRead => some fill

/-- `n` bytes of the part of a logical frame that follows its header, the first at offset `i` of that part (30_encoding.md R114). -/
def bodyBytes (s : State) (i n : Nat) : Option (List Byte) :=
  match s.cur.op with
  | .write => some (List.replicate n s.cur.wdata)
  | .read => some (List.replicate n fill)
  | .burstWrite => s.txbuf.readRange i n
  | .burstRead => some (List.replicate n fill)

/-- The header bytes among the `n` request bytes from logical position g on (42_burst.md R201). -/
def headerPart (s : State) (g n : Nat) : List Byte := ((s.hdr.toList.take s.hReg.toNat).drop g).take n

/-- The `n` request bytes from logical position g on: header bytes first, then the body from offset g - h on (40_transaction.md R145,
42_burst.md R201). It is `lbyte` at g, g + 1, ... without walking TXBUF once per byte. -/
def requestBytes (s : State) (g n : Nat) : Option (List Byte) :=
  (bodyBytes s (g - s.hReg.toNat) (n - (headerPart s g n).length)).map (headerPart s g n ++ ·)

/-- What acceptance latches once the checks pass (40_transaction.md R141): CUR, H, T, HDR, K, REM, DIAG and the event of a masked
address bit. -/
def latch (op : Op) (f : Fields) (s : State) : State :=
  { s with
    cur    := latchCur op f
    hReg   := BitVec.ofNat 3 (headerLen f.mode)
    tReg   := BitVec.ofNat 16 (frameLen op f.mode f.n)
    hdr    := header (latchCur op f) (BitVec.ofNat 16 (frameLen op f.mode f.n)) s.hdr
    kReg   := 0#16
    remReg := BitVec.ofNat 16 (frameLen op f.mode f.n)
    diag   := addrBit7 f
    events := s.events ++ (if addrBit7 f = 1#1 then [.addrMasked f.addr] else []) }

end Sys2Proof.Machine
end

