-- ==== Sys2Proof/Machine/Transaction.lean ====
section
/-! DEFINITION. The steps every command is run by (40_transaction.md): accept, build, send, receive, validate, commit. -/

namespace Sys2Proof.Machine

open Sys2Proof.Config

/-- What the model answers for a step: it goes on, or stops with a fault (60_exceptions.md R260). -/
abbrev Answer := Host.Outcome State Fault Refusal

/-- The size of the segment about to be built: S = min(C, REM) (40_transaction.md R145). -/
def segmentSize (s : State) : Nat := min s.params.chunkMax s.remReg.toNat

/-- The first logical position of segment K: K * C (40_transaction.md R145). -/
def segmentStart (s : State) : Nat := s.kReg.toNat * s.params.chunkMax

/-- Segment K is in TXSEG and offered (40_transaction.md R145). -/
def segmentBuilt (n : Nat) (bs : List Byte) (s : State) : State :=
  { s with
    sReg   := BitVec.ofNat 16 n
    txseg  := s.txseg.writeRange 0 bs
    events := s.events ++ [.frameBuilt s.kReg (BitVec.ofNat 16 n)]
    phase  := .frameBuilt }

/-- BuildSegment, the tail of the step that calls it (40_transaction.md R145); a TXBUF byte with no value faults the whole step. -/
def buildSegment (s : State) : Answer :=
  match requestBytes s (segmentStart s) (segmentSize s) with
  | none => .fault (.framerNoValue .txbuf)
  | some bs => .next (segmentBuilt (segmentSize s) bs s)

/-- The first thing acceptance does, before the checks (40_transaction.md R141). -/
def clearProgress (s : State) : State := { s with diag := 0#1, chunksDone := 0#16 }

/-- Accept of a descriptor that is no command (40_transaction.md R141, checks 1 and 2 of R142): enabled only in IDLE. -/
def rejectDescriptor (e : DecodeError) (s : State) : Answer :=
  if s.phase = .idle then
    match e with
    | .reservedOp => .next (raise .invalidArgument 1#4 0#8 (clearProgress s))
    | .reservedBits => .next (raise .invalidArgument 2#4 0#8 (clearProgress s))
  else .next s

/-- Accept of a command (40_transaction.md R141, R142): enabled only in IDLE (R156); in any other state the command is not taken and
nothing changes. -/
def accept (op : Op) (f : Fields) (s : State) : Answer :=
  if s.phase = .idle then
    match precheck op f s with
    | some e => .next (raise e.1 e.2 0#8 (clearProgress s))
    | none => buildSegment (latch op f (clearProgress s))
  else .next s

/-- The answer to the send of segment K (40_transaction.md R146). -/
def send (ans : SendAnswer) (s : State) : State :=
  match ans with
  | .count c => if c = s.sReg.toNat then { s with phase := .sent } else raise .transportError 2#4 0#8 s
  | .err => raise .transportError 2#4 0#8 s

/-- IssueReceive (40_transaction.md R147): a receive of exactly S bytes is posted. -/
def issueReceive (s : State) : State := { s with phase := .awaitingReply }

/-- Complete, the commit (40_transaction.md R152). -/
def complete (s : State) : Answer :=
  match s.cur.op with
  | .write => .next (finish 0#8 s)
  | .read =>
    match s.rxseg.read (s.tReg.toNat - 1) with
    | none => .fault (.framerNoValue .rxseg)
    | some d => .next (finish d s)
  | .burstWrite => .next (finish 0#8 s)
  | .burstRead =>
    match s.stg.readRange 0 s.cur.n.toNat with
    | none => .fault (.framerNoValue .stg)
    | some bs => .next (finish 0#8 { s with rxbuf := s.rxbuf.writeRange 0 bs })

/-- The data bytes `r` of the reply to segment K, its first byte at logical position g, go to STG from offset g - h on; bytes at
header positions are dropped (40_transaction.md R151). -/
def stageReply (r : List Byte) (s : State) : State :=
  { s with stg := s.stg.writeRange (segmentStart s - s.hReg.toNat) (r.drop (s.hReg.toNat - segmentStart s)) }

/-- The segment is done with: REM and K move on (40_transaction.md R151). -/
def advance (s : State) : State := { s with remReg := s.remReg - s.sReg, kReg := s.kReg + 1#16 }

/-- The tail of AcceptSegment: the commit when the frame is done, else the next segment (40_transaction.md R151, R153). -/
def continueOrComplete (s : State) : Answer :=
  if s.remReg = 0#16 then complete s else buildSegment s

/-- AcceptSegment (40_transaction.md R151). -/
def acceptSegment (s : State) : Answer :=
  if s.cur.op = .burstRead then
    match s.rxseg.readRange 0 s.sReg.toNat with
    | none => .fault (.framerNoValue .rxseg)
    | some r => continueOrComplete (advance (stageReply r s))
  else continueOrComplete (advance s)

/-- Validate, the reply validator (40_transaction.md R150). -/
def validate (s : State) : Answer :=
  if statusRequired s.params.burstWriteStatus s.cur.op (s.remReg = s.sReg) then
    match s.rxseg.read statusOffset with
    | none => .fault (.framerNoValue .rxseg)
    | some v => if v ≠ successMarker then .next (raise .remoteNack 1#4 v s) else acceptSegment s
  else acceptSegment s

/-- A reply of the exact length is in RXSEG and counted (40_transaction.md R149). -/
def replyReceived (r : List Byte) (s : State) : State :=
  { s with rxseg := s.rxseg.writeRange 0 r, chunksDone := s.chunksDone + 1#16 }

/-- The answer to the receive (40_transaction.md R149): Err before length, length before status (60_exceptions.md R248(b)). -/
def receive (ans : RecvAnswer) (s : State) : Answer :=
  match ans with
  | .err => .next (raise .transportError 3#4 0#8 s)
  | .bytes r =>
    if r.length < s.sReg.toNat then .next (raise .shortResponse 1#4 0#8 s)
    else if s.sReg.toNat < r.length then .next (raise .shortResponse 2#4 0#8 s)
    else validate (replyReceived r s)

end Sys2Proof.Machine
end

