-- ==== Sys2Proof/Machine/Burst.lean ====
section
/-! DEFINITION. The burst commands (42_burst.md). As for the single-register commands, the meaning of a command is its acceptance;
the segments after the first are built by the steps that accept the replies (40_transaction.md R151, R153). -/

namespace Sys2Proof.Machine

/-- BURST_WRITE (42_burst.md R204): h + N bytes, the payload TXBUF[0..N). -/
def execBurstWrite (f : Fields) (s : State) : Answer := accept .burstWrite f s

/-- BURST_READ (42_burst.md R205): h + N bytes, FILL after the header. -/
def execBurstRead (f : Fields) (s : State) : Answer := accept .burstRead f s

end Sys2Proof.Machine
end

