-- ==== Sys2Proof/Machine/Single.lean ====
section
/-! DEFINITION. The single-register commands (41_single_register.md). The meaning of a command is its acceptance, the HOST's
handshake that starts its transaction (40_transaction.md R141); the rest of the transaction are the later steps of the machine. -/

namespace Sys2Proof.Machine

/-- WRITE (41_single_register.md R180): one segment of h + 1 bytes, the last one WDATA. -/
def execWrite (f : Fields) (s : State) : Answer := accept .write f s

/-- READ (41_single_register.md R181): one segment of h + 1 bytes, the last one FILL. -/
def execRead (f : Fields) (s : State) : Answer := accept .read f s

end Sys2Proof.Machine
end

