-- ==== Sys2Proof/Machine/Dispatch.lean ====
section
/-! DEFINITION. One arm per command of spec/opcode_table.json. -/

namespace Sys2Proof.Machine

def exec (i : Instr) (s : State) : Host.Outcome State Fault Refusal :=
  match i with
  | .write f => Sys2Proof.Machine.execWrite f s
  | .read f => Sys2Proof.Machine.execRead f s
  | .burstWrite f => Sys2Proof.Machine.execBurstWrite f s
  | .burstRead f => Sys2Proof.Machine.execBurstRead f s

end Sys2Proof.Machine
end

