-- ==== Sys2Proof/Machine/Peer.lean ====
section
/-! DEFINITION. The TRANSPORT (00_scope.md R8) and the reference peer, one deterministic instance of it (20_memory.md R76-R82). -/

namespace Sys2Proof.Machine

open Sys2Proof.Config

/-- SEQ(key): a key that is not listed holds the empty string (20_memory.md R76). -/
def Bank.get : Bank → Nat → List Byte
  | [], _ => []
  | e :: b, k => if e.1 = k then e.2 else Bank.get b k

/-- SEQ(key) <- bs; the canonical form is kept, and the empty string is not listed. -/
def Bank.set (b : Bank) (k : Nat) (bs : List Byte) : Bank :=
  b.filter (fun e => e.1 < k) ++ (if bs = [] then [] else [(k, bs)]) ++ b.filter (fun e => k < e.1)

/-- zeros(n) (00_scope.md R11). -/
def zeros (n : Nat) : List Byte := List.replicate n 0x00#8

/-- Byte i of a string, 0x00 past its end. -/
def byteAt (bs : List Byte) (i : Nat) : Byte := bs.getD i 0x00#8

/-- M, the mode bit of a frame's first byte (20_memory.md R77, 30_encoding.md R116). -/
def frameMultiplexed (head : List Byte) : Bool := (byteAt head 0).getLsbD 4

/-- kind, the low four bits of a frame's first byte (20_memory.md R77). -/
def frameKind (head : List Byte) : Nat := ((byteAt head 0).extractLsb' 0 4).toNat

/-- T, read back from the two LEN bytes (20_memory.md R77, 30_encoding.md R109). -/
def frameTotal (head : List Byte) : Nat := (byteAt head 1).toNat * 256 + (byteAt head 2).toNat

/-- h = 4 + M (20_memory.md R77). -/
def frameHeaderLen (head : List Byte) : Nat := if frameMultiplexed head then 5 else 4

/-- a = b[h-1][6:0] (20_memory.md R77). -/
def frameAddr (head : List Byte) : Nat := ((byteAt head (frameHeaderLen head - 1)).extractLsb' 0 7).toNat

/-- The key of (mux byte t, address a) in the Multiplexed bank (20_memory.md R76). -/
def muxKey (t a : Nat) : Nat := t * 128 + a

/-- SEQ(a) for the frame with these header bytes: the Direct bank or the Multiplexed one (20_memory.md R76). -/
def Peer.seq (p : Peer) (head : List Byte) : List Byte :=
  if frameMultiplexed head then p.seqM.get (muxKey (byteAt head 3).toNat (frameAddr head)) else p.seqD.get (frameAddr head)

/-- SEQ(a) <- bs for the frame with these header bytes (20_memory.md R76). -/
def Peer.setSeq (p : Peer) (head bs : List Byte) : Peer :=
  if frameMultiplexed head then { p with seqM := p.seqM.set (muxKey (byteAt head 3).toNat (frameAddr head)) bs }
  else { p with seqD := p.seqD.set (frameAddr head) bs }

/-- The whole reply to a BURST_READ frame of T bytes, by logical position (20_memory.md R81). -/
def burstReadReply (h t : Nat) (seq : List Byte) : List Byte := [successMarker] ++ zeros (h - 1) ++ seq ++ zeros t

/-- The header bytes of the frame a segment belongs to: a frame's first segment brings them (20_memory.md R77). -/
def Peer.headFor (p : Peer) (seg : List Byte) : List Byte := if p.pos = 0 then seg.take 5 else p.head

/-- The segment is the one the peer expects next: a whole segment of a frame the FRAMER can send, of the size the geometry of
42_burst.md R200 gives at the receive position (20_memory.md R77). -/
def Peer.expects (p : Peer) (chunkMax : Nat) (head seg : List Byte) : Bool :=
  seg.length == min chunkMax (frameTotal head - p.pos) && decide (p.pos < frameTotal head)
    && decide (p.pos ≠ 0 ∨ frameHeaderLen head ≤ seg.length)
    && ((frameKind head == 1 || frameKind head == 2) && p.pos == 0 && frameTotal head == frameHeaderLen head + 1
      || frameKind head == 3 || frameKind head == 4)

/-- The effect of a segment on the banks (20_memory.md R78-R81). -/
def Peer.effect (p : Peer) (head seg : List Byte) : Peer :=
  if frameKind head = 1 then p.setSeq head [byteAt seg (frameHeaderLen head)]
  else if frameKind head = 3 then
    if p.pos = 0 then p.setSeq head (seg.drop (frameHeaderLen head)) else p.setSeq head (p.seq head ++ seg)
  else p

/-- The reply to a segment, before the fault script (20_memory.md R78-R81). -/
def Peer.replyTo (p : Peer) (head seg : List Byte) : List Byte :=
  if frameKind head = 2 then [successMarker] ++ zeros (seg.length - 2) ++ [byteAt (p.seq head) 0]
  else if frameKind head = 4 then
    ((burstReadReply (frameHeaderLen head) (frameTotal head) (p.seq head)).drop p.pos).take seg.length
  else [successMarker] ++ zeros (seg.length - 1)

/-- The receive position after a segment: the next frame begins where this one ends (20_memory.md R76). -/
def nextPos (pos len total : Nat) : Nat := if total ≤ pos + len then 0 else pos + len

/-- A whole segment has arrived (20_memory.md R77). A segment the peer does not expect has no effect and gets no reply: the peer is out
of step, and 20_memory.md gives it nothing to do. DESIGN CHOICE (log 12), safe. So it is after a burst that ended early, and also after
a NACK of a segment that is not the last (BURST_WRITE under EVERY): 70_reset_and_hazards.md R284 calls the stream in step there, and the
peer keeps its position inside the unfinished frame all the same, so that the first segment of a next command is taken as the frame's
next one when it has that one's length, and gets no reply when it has another. DESIGN CHOICE (log 12), unsafe for a claim about the
peer there. -/
def Peer.arrive (p : Peer) (chunkMax : Nat) (seg : List Byte) : Peer :=
  let head := p.headFor seg
  if p.expects chunkMax head seg then
    { p.effect head seg with
      head  := head
      reply := some (p.replyTo head seg)
      pos   := nextPos p.pos seg.length (frameTotal head) }
  else { p with reply := none }

/-- The answer of the fault script to the send of segment k, when it has one (20_memory.md R82). -/
def sendFault (k : Nat) : List (Nat × PeerFault) → Option SendAnswer
  | [] => none
  | (j, .sendShort c) :: fs => if j = k then some (.count c) else sendFault k fs
  | (j, .sendErr) :: fs => if j = k then some .err else sendFault k fs
  | (_, .recvErr) :: fs => sendFault k fs
  | (_, .replyLen _) :: fs => sendFault k fs
  | (_, .status _) :: fs => sendFault k fs

/-- One fault applied to the answer to a receive of `n` bytes (20_memory.md R82); `none` is no answer. RecvErr and ReplyLen answer
whether or not the peer has a reply, and Status changes a reply that is there. Without a reply R78-R81 give ReplyLen no bytes, and it is
zeros throughout, in an answer whose length alone can show; with m = n it is no fault of R82 and gives none. DESIGN CHOICE (log 18). -/
def spoil (n : Nat) (a : Option RecvAnswer) (f : PeerFault) : Option RecvAnswer :=
  match a, f with
  | a, .sendShort _ => a
  | a, .sendErr => a
  | _, .recvErr => some .err
  | none, .replyLen m => if m = n then none else some (.bytes (zeros m))
  | some .err, .replyLen _ => some .err
  | some (.bytes r), .replyLen m => some (.bytes (r.take m ++ zeros (m - r.length)))
  | none, .status _ => none
  | some .err, .status _ => some .err
  | some (.bytes r), .status v => some (.bytes (r.set 0 v))

/-- The faults the script has for segment k, in its order (20_memory.md R82). -/
def faultsAt (k : Nat) (fs : List (Nat × PeerFault)) : List PeerFault := (fs.filter (fun e => e.1 = k)).map (·.2)

/-- The reference peer answers a send: all bytes accepted, unless the script says otherwise (20_memory.md R77, R82). A segment whose
send fails has no effect. -/
def Peer.onSend (p : Peer) (chunkMax : Nat) (seg : List Byte) : SendAnswer × Peer :=
  let q := { p with segNo := p.segNo + 1, reply := none }
  match sendFault p.segNo p.faults with
  | some (.count c) => if c = seg.length then (.count c, q.arrive chunkMax seg) else (.count c, q)
  | some .err => (.err, q)
  | none => (.count seg.length, q.arrive chunkMax seg)

/-- The reference peer answers a receive of `n` bytes with the reply it has ready, as the script changes it (20_memory.md R77, R82). With
none ready, for a segment out of step with its frame, it answers what a RecvErr or ReplyLen of the script says, and else not at all: that
it gives no reply of its own there is DESIGN CHOICE (log 12), safe. -/
def Peer.onRecv (p : Peer) (n : Nat) : Option (RecvAnswer × Peer) :=
  ((faultsAt (p.segNo - 1) p.faults).foldl (spoil n) (p.reply.map .bytes)).map (fun a => (a, { p with reply := none }))

/-- The TRANSPORT answers the send of `seg`; `none` when it does not answer (40_transaction.md R146, R157). -/
def Transport.onSend (t : Transport) (chunkMax : Nat) (seg : List Byte) : Option (SendAnswer × Transport) :=
  match t with
  | .free [] _ => none
  | .free (a :: sends) recvs => some (a, .free sends recvs)
  | .peer p => some ((p.onSend chunkMax seg).1, .peer (p.onSend chunkMax seg).2)

/-- The TRANSPORT answers a receive of `n` bytes; `none` when it does not answer (40_transaction.md R149, R157). -/
def Transport.onRecv (t : Transport) (n : Nat) : Option (RecvAnswer × Transport) :=
  match t with
  | .free _ [] => none
  | .free sends (a :: recvs) => some (a, .free sends recvs)
  | .peer p =>
    match p.onRecv n with
    | none => none
    | some x => some (x.1, .peer x.2)

/-- The reference peer at the start of a run: empty banks (20_memory.md R76) and the fault script given (20_memory.md R82). -/
def Peer.start (faults : List (Nat × PeerFault)) : Peer := ⟨[], [], 0, [], none, 0, faults⟩

end Sys2Proof.Machine
end

