-- ==== Sys2Proof/Machine/Agents.lean ====
section
/-! DEFINITION. The three agents and the turns they take (00_scope.md R7). A turn of an agent that has no enabled step changes
nothing: the agent waits (60_exceptions.md R260). -/

namespace Sys2Proof.Machine

open Sys2Proof.Config

/-- Accept(d) (40_transaction.md R141): a descriptor that is a command runs that command, any other is refused with an architected
error (30_encoding.md R104). -/
def present (d : Word) (s : State) : Answer :=
  match decode d with
  | .ok i => exec i s
  | .error e => rejectDescriptor e s

/-- The HOST's next action is taken: it leaves the HOST's list. -/
def popHost (rest : List HostOp) (s : State) : State := { s with host := { s.host with program := rest } }

/-- HostWriteTx(i, v) (20_memory.md R61): `none` when the HOST has no step for it and waits (20_memory.md R75). -/
def hostWriteTx (i : Half) (v : Byte) (s : State) : Option Answer :=
  if s.params.bufSize ≤ i.toNat then some (.fault (.hostAccessError .txbuf))
  else if s.phase.busy then none
  else some (.next { s with txbuf := s.txbuf.write i.toNat v })

/-- HostReadRx(i) (20_memory.md R62), in any STATE, with no side effect. -/
def hostReadRx (i : Half) (s : State) : Answer :=
  if s.params.bufSize ≤ i.toNat then .fault (.hostAccessError .rxbuf)
  else
    match s.rxbuf.read i.toNat with
    | none => .fault .hostNoValue
    | some v => .next (answerHost (.rxByte v) s)

/-- What an action of the HOST does; `none` when it is not enabled and the HOST waits with it (40_transaction.md R154, R156;
20_memory.md R61, R62; 10_state.md R31, R32). -/
def hostOp (o : HostOp) (s : State) : Option Answer :=
  match o with
  | .issue d => if s.phase = .idle then some (present d s) else none
  | .takeResponse => if s.phase.done then some (.next (respondAccept s)) else none
  | .writeTx i v => hostWriteTx i v s
  | .readRx i => some (hostReadRx i s)
  | .readStatus => some (.next (answerHost (.status (statusWord s)) s))
  | .readResp => some (.next (answerHost (.resp s.resp) s))

/-- The HOST's turn: its next action, in its own order (20_memory.md R72(f)), if it is enabled. -/
def hostMove (s : State) : Answer :=
  match s.host.program with
  | [] => .next s
  | o :: rest => (hostOp o (popHost rest s)).getD (.next s)

/-- The FRAMER's turn: IssueReceive is its only step of its own, enabled in SENT (40_transaction.md R147, R148). -/
def framerMove (s : State) : Answer := if s.phase = .sent then .next (issueReceive s) else .next s

/-- The TRANSPORT took its turn: its own state moves on, and what it was offered is recorded (log 14). -/
def offered (segs : List (List Byte)) (t : Transport) (s : State) : State := { s with transport := t, wire := s.wire ++ segs }

/-- The TRANSPORT answers a send of TXSEG[0..S) (40_transaction.md R146); `none` when it does not answer. -/
def transportSend (s : State) : Option Answer :=
  match s.txseg.readRange 0 s.sReg.toNat with
  | none => some (.fault (.framerNoValue .txseg))
  | some seg =>
    match s.transport.onSend s.params.chunkMax seg with
    | none => none
    | some a => some (.next (send a.1 (offered [seg] a.2 s)))

/-- The TRANSPORT answers a receive of S bytes (40_transaction.md R149); `none` when it does not answer. -/
def transportReceive (s : State) : Option Answer :=
  match s.transport.onRecv s.sReg.toNat with
  | none => none
  | some a => some (receive a.1 (offered [] a.2 s))

/-- The TRANSPORT's step: only FRAME_BUILT and AWAITING_REPLY have a request outstanding (10_state.md R38). -/
def transportStep (s : State) : Option Answer :=
  match s.phase with
  | .idle => none
  | .frameBuilt => transportSend s
  | .sent => none
  | .awaitingReply => transportReceive s
  | .validated => none
  | .failed => none

/-- The TRANSPORT's turn; a TRANSPORT that does not answer leaves the FRAMER where it is (40_transaction.md R157). -/
def transportMove (s : State) : Answer := (transportStep s).getD (.next s)

/-- The turn when none is listed: the FRAMER if it has a step, else the TRANSPORT if it answers, else the HOST.
DESIGN CHOICE (log 3): the spec orders the agents no further than their enabling conditions. -/
def freeMove (s : State) : Answer :=
  if s.phase = .sent then framerMove s else (transportStep s).getD (hostMove s)

/-- One turn (00_scope.md R7). Reset and a change of `link_up` are input events, possible in any state. -/
def takeTurn (s : State) : Answer :=
  match s.turns with
  | [] => freeMove s
  | .host :: ts => hostMove { s with turns := ts }
  | .framer :: ts => framerMove { s with turns := ts }
  | .transport :: ts => transportMove { s with turns := ts }
  | .link v :: ts => .next { s with turns := ts, linkUp := v }
  | .reset :: ts => .next (applyReset { s with turns := ts })

/-- The HOST is given the descriptor `d` to issue at once: the FRAMER is brought to IDLE, no turn is listed before it, and `d` is the
HOST's next action. -/
def placeCommand (d : Word) (s : State) : State :=
  { enterIdle s with turns := [], host := { s.host with program := .issue d :: s.host.program } }

end Sys2Proof.Machine
end

