-- ==== Sys2Proof/Machine/Step.lean ====
section
/-! DEFINITION. One step of the machine: one turn of an agent, or one input event (00_scope.md R7). -/

namespace Sys2Proof.Machine

/-- One step. There is no fetch: a command reaches the FRAMER when the HOST presents its descriptor (10_state.md R20, R32). -/
def step (s : State) : Host.Outcome State Fault Refusal := takeTurn s

/-- `s` with the HOST about to present the descriptor whose bits are `w`; every bit at `nbits` and above is 0. -/
def State.withFetchWord (s : State) (nbits w : Nat) : State := placeCommand (BitVec.ofNat 64 (w % 2 ^ nbits)) s

end Sys2Proof.Machine
end

