-- ==== Sys2Proof/Machine/Assembler.lean ====
section
/-! DEFINITION. The command assembly language (30_encoding.md R119, R120): one line, one descriptor. What the rules leave to the
reader of a line (spaces, letter case of mnemonics and digits) is DESIGN CHOICE (log 16). -/

namespace Sys2Proof.Machine

/-- What a line of assembly comes to. -/
inductive AsmResult where
  | word (d : Word)  -- exactly one descriptor (30_encoding.md R120)
  | blank            -- nothing but a comment or spaces
  | error            -- an assembly error: refused, it never reaches the block (30_encoding.md R119)
  deriving DecidableEq, Repr

/-- A mux, addr or data operand: 0..255 (30_encoding.md R119). -/
def byteOperand (x : Nat) : Option Byte := if x ≤ 255 then some (BitVec.ofNat 8 x) else none

/-- An n operand: 0..65535 (30_encoding.md R119). -/
def lengthOperand (x : Nat) : Option Half := if x ≤ 65535 then some (BitVec.ofNat 16 x) else none

/-- The fields of `op.D addr, data` and its multiplexed form, from the operands in the order of 30_encoding.md R119: the mux target
first in Multiplexed mode, 0 in Direct mode. -/
def asmFields (m : Mode) (mux addr data n : Nat) : Option Fields :=
  match byteOperand mux, byteOperand addr, byteOperand data, lengthOperand n with
  | some mx, some a, some w, some k => some ⟨m, mx, a, w, k⟩
  | _, _, _, _ => none

/-- The command of a mnemonic with a mode suffix and its operands, in the eight forms of 30_encoding.md R119; `none` is an assembly
error (a wrong number of operands, or one out of range). -/
def asmCommand (op : Op) (m : Mode) (xs : List Nat) : Option Instr :=
  match op, m, xs with
  | .write, .direct, [addr, data] => (asmFields .direct 0 addr data 0).map .write
  | .write, .multiplexed, [mux, addr, data] => (asmFields .multiplexed mux addr data 0).map .write
  | .read, .direct, [addr] => (asmFields .direct 0 addr 0 0).map .read
  | .read, .multiplexed, [mux, addr] => (asmFields .multiplexed mux addr 0 0).map .read
  | .burstWrite, .direct, [addr, n] => (asmFields .direct 0 addr 0 n).map .burstWrite
  | .burstWrite, .multiplexed, [mux, addr, n] => (asmFields .multiplexed mux addr 0 n).map .burstWrite
  | .burstRead, .direct, [addr, n] => (asmFields .direct 0 addr 0 n).map .burstRead
  | .burstRead, .multiplexed, [mux, addr, n] => (asmFields .multiplexed mux addr 0 n).map .burstRead
  | _, _, _ => none

/-- The descriptor of a command line (30_encoding.md R119). -/
def assembleCommand (op : Op) (m : Mode) (xs : List Nat) : AsmResult :=
  match asmCommand op m xs with
  | some i => .word (encode i)
  | none => .error

/-- `.CMD d64`: the raw descriptor, any 64-bit value (30_encoding.md R119, R120). -/
def assembleRaw (xs : List Nat) : AsmResult :=
  match xs with
  | [d] => if d < 2 ^ 64 then .word (BitVec.ofNat 64 d) else .error
  | _ => .error

/-- A space between the parts of a line. -/
def isBlank (c : Char) : Bool := c == ' ' || c == '\t'

/-- A part of a line without the spaces around it. -/
def trimBlanks (cs : List Char) : List Char := ((cs.dropWhile isBlank).reverse.dropWhile isBlank).reverse

/-- The value of a digit in the base given. -/
def digitValue (base : Nat) (c : Char) : Option Nat :=
  let v := if c.toNat ≤ 57 then c.toNat - 48 else if c.toNat ≤ 70 then c.toNat - 55 else c.toNat - 87
  let known := (48 ≤ c.toNat ∧ c.toNat ≤ 57) ∨ (65 ≤ c.toNat ∧ c.toNat ≤ 70) ∨ (97 ≤ c.toNat ∧ c.toNat ≤ 102)
  if known ∧ v < base then some v else none

/-- The number a string of digits writes, from the number its first part wrote. -/
def numberFrom (base : Nat) : Nat → List Char → Option Nat
  | acc, [] => some acc
  | acc, c :: cs =>
    match digitValue base c with
    | some v => numberFrom base (acc * base + v) cs
    | none => none

/-- A decimal or 0x-hexadecimal number (30_encoding.md R119). -/
def parseNumber (cs : List Char) : Option Nat :=
  match cs with
  | [] => none
  | '0' :: 'x' :: [] => none
  | '0' :: 'x' :: ds => numberFrom 16 0 ds
  | ds => numberFrom 10 0 ds

/-- The comma-separated operands of a line; `none` when one of them is no number. -/
def parseOperands (cs : List Char) : Option (List Nat) :=
  if trimBlanks cs = [] then some [] else (cs.splitOn ',').mapM (fun o => parseNumber (trimBlanks o))

/-- The operation and the mode of a mnemonic; the mode suffix is never implied (30_encoding.md R119, R120). -/
def mnemonicOf (cs : List Char) : Option (Op × Mode) :=
  if cs = "WRITE.D".toList then some (.write, .direct)
  else if cs = "WRITE.M".toList then some (.write, .multiplexed)
  else if cs = "READ.D".toList then some (.read, .direct)
  else if cs = "READ.M".toList then some (.read, .multiplexed)
  else if cs = "BURST_WRITE.D".toList then some (.burstWrite, .direct)
  else if cs = "BURST_WRITE.M".toList then some (.burstWrite, .multiplexed)
  else if cs = "BURST_READ.D".toList then some (.burstRead, .direct)
  else if cs = "BURST_READ.M".toList then some (.burstRead, .multiplexed)
  else none

/-- The line as its mnemonic and the rest, comment and outer spaces gone; comments start with a semicolon (30_encoding.md R120). -/
def splitLine (cs : List Char) : List Char × List Char :=
  (trimBlanks (cs.takeWhile (· ≠ ';'))).span (fun c => !isBlank c)

/-- A line of assembly (30_encoding.md R119, R120). -/
def assembleLine (cs : List Char) : AsmResult :=
  if (splitLine cs).1 = [] then .blank
  else
    match parseOperands (splitLine cs).2 with
    | none => .error
    | some xs =>
      if (splitLine cs).1 = ".CMD".toList then assembleRaw xs
      else
        match mnemonicOf (splitLine cs).1 with
        | none => .error
        | some om => assembleCommand om.1 om.2 xs

end Sys2Proof.Machine
end

