-- ==== Sys2Proof/Safety.lean ====
section
/-! DEFINITION. The terms claims are stated in: what a finished run is, the invariants of the machine, the segment geometry, and what
the caller's address bit 7 may show in. -/

namespace Sys2Proof.Safety

open Sys2Proof.Machine Sys2Proof.Config

/-- The end of a run of a HOST program (60_exceptions.md R261); a fault is no state, so no fault is recorded. R261 asks that no command is
left to issue and is silent on reads, TXBUF writes and handshakes still to take: the model counts every action of the HOST, so that the
end is an empty list. DESIGN CHOICE (log 24), safe. -/
abbrev finished (s : State) : Prop := s.host.program = [] ∧ s.phase = .idle

/-- Every byte array has its one form. -/
abbrev memoriesCanonical (s : State) : Prop :=
  s.txbuf.wf ∧ s.rxbuf.wf ∧ s.stg.wf ∧ s.txseg.wf ∧ s.rxseg.wf

/-- No byte array holds an index outside its size (20_memory.md R60). -/
abbrev memoriesBounded (s : State) : Prop :=
  s.txbuf.bounded s.params.bufSize ∧ s.rxbuf.bounded s.params.bufSize ∧ s.stg.bounded s.params.bufSize ∧
    s.txseg.bounded s.params.chunkMax ∧ s.rxseg.bounded s.params.chunkMax

/-- The working state as ClearWorking leaves it (40_transaction.md R155). -/
abbrev workingCleared (s : State) : Prop :=
  s.hdr = Hdr.zero ∧ s.hReg = 0#3 ∧ s.tReg = 0#16 ∧ s.kReg = 0#16 ∧ s.remReg = 0#16 ∧ s.sReg = 0#16 ∧
    s.txseg = [] ∧ s.rxseg = [] ∧ s.stg = []

/-- IDLE holds no working state (40_transaction.md R155, 10_state.md R36 and R37). -/
abbrev idleClean (s : State) : Prop := s.phase = .idle → workingCleared s

/-- The largest SUBCODE of a RESULT: 0 for OK, and as many as 60_exceptions.md R241-R245 list for the others. -/
def lastSubcode (r : BitVec 3) : Nat :=
  if r = 0#3 then 0 else if r = 1#3 ∨ r = 2#3 then 3 else if r = 3#3 then 2 else 1

/-- RESP is a word the layout and the codes allow (10_state.md R28, 60_exceptions.md R240-R245): RESULT at most 5, the reserved bits 0, a
SUBCODE of that RESULT (0 exactly for OK), a NACK_CODE for REMOTE_NACK only and RDATA for OK only. -/
abbrev respWordLegal (w : Word) : Prop :=
  (respResult w).toNat ≤ 5 ∧ w.extractLsb' 24 8 = 0#8 ∧ w.extractLsb' 48 16 = 0#16 ∧
    (respSubcode w).toNat ≤ lastSubcode (respResult w) ∧ (respSubcode w = 0#4 → respResult w = 0#3) ∧
    (respResult w ≠ 4#3 → respNackCode w = 0#8) ∧ (respResult w ≠ 0#3 → respRdata w = 0#8)

/-- RESP is a legal word that agrees with the other registers (10_state.md R23, R27, R28): RESULT with STATE, DIAG and CHUNKS_DONE with
their copies while the response is offered, and, until the next transaction is under way, RDATA not 0 only after a READ. -/
abbrev respConsistent (s : State) : Prop :=
  respWordLegal s.resp ∧
    (s.phase = .validated → respResult s.resp = 0#3) ∧ (s.phase = .failed → respResult s.resp ≠ 0#3) ∧
    (s.phase.done = true → respDiag s.resp = s.diag ∧ respChunksDone s.resp = s.chunksDone) ∧
    (s.phase.busy = false → respRdata s.resp ≠ 0#8 → s.cur.op = .read)

/-- The registers of a transaction under way: H, T, HDR and W are what CUR makes them (30_encoding.md R109-R111), segment K starts
inside the frame, REM and S are what is left and what is in flight (42_burst.md R200), and CHUNKS_DONE counts the segments done
(10_state.md R27). -/
abbrev transactionGeometry (s : State) : Prop :=
  s.phase.busy = true →
    s.hReg.toNat = headerLen s.cur.mode ∧ s.tReg.toNat = frameLen s.cur.op s.cur.mode s.cur.n ∧
    s.hdr = header s.cur s.tReg s.hdr ∧ s.cur.w = accessFlag s.cur.op ∧
    (s.cur.op.isBurst = true → 1 ≤ s.cur.n.toNat ∧ s.cur.n.toNat ≤ s.params.bufSize) ∧
    segmentStart s < s.tReg.toNat ∧ s.remReg.toNat = s.tReg.toNat - segmentStart s ∧
    s.sReg.toNat = segmentSize s ∧ s.chunksDone = s.kReg

/-- TXSEG[0..S) holds the request bytes of segment K, all of them with a value (40_transaction.md R145). -/
abbrev segmentHeld (s : State) : Prop :=
  s.phase.busy = true →
    requestBytes s (segmentStart s) s.sReg.toNat ≠ none ∧
    s.txseg.readRange 0 s.sReg.toNat = requestBytes s (segmentStart s) s.sReg.toNat

/-- STG holds every data byte of the segments received so far (40_transaction.md R151). -/
abbrev repliesStaged (s : State) : Prop :=
  s.phase.busy = true → s.cur.op = .burstRead → ∀ i < segmentStart s - s.hReg.toNat, s.stg.read i ≠ none

/-- Everything the machine keeps. -/
abbrev inv (s : State) : Prop :=
  s.params.legal ∧ memoriesCanonical s ∧ memoriesBounded s ∧ idleClean s ∧ respConsistent s ∧ transactionGeometry s ∧
    segmentHeld s ∧ repliesStaged s

/-- The number of segments of a frame of `t` bytes (42_burst.md R200). -/
def segmentCount (c t : Nat) : Nat := (t + c - 1) / c

/-- S_k, the size of segment k of a frame of `t` bytes (42_burst.md R200). -/
def sizeOfSegment (c t k : Nat) : Nat := min c (t - k * c)

/-- An outcome with its next state, if it has one, changed. -/
def mapNext (g : State → State) (o : Host.Outcome State Fault Refusal) : Host.Outcome State Fault Refusal :=
  match o with
  | .next t => .next (g t)
  | .fault r => .fault r
  | .refused r => .refused r

/-- A response word without its DIAG bit (10_state.md R28). -/
def withoutDiag (w : Word) : Word := w &&& ~~~(0x8#64)

/-- What a HOST port gave, without the DIAG bit of a response word. -/
def answerWithoutDiag : HostAnswer → HostAnswer
  | .response w => .response (withoutDiag w)
  | .rxByte v => .rxByte v
  | .status v => .status v
  | .resp w => .resp (withoutDiag w)

/-- The event is not the one a masked address bit emits (60_exceptions.md R263). -/
def notAddrMasked : DiagEvent → Bool
  | .addrMasked _ => false
  | .frameBuilt _ _ => true
  | .ioError _ _ => true
  | .shortResponse _ _ => true
  | .remoteNack _ _ => true

/-- The state with everything taken out that 41_single_register.md R183 lets the caller's address bit 7 show in: DIAG, its copies in
response words, and EV_ADDR_MASKED. -/
def hideDiag (s : State) : State :=
  { s with
    diag   := 0#1
    resp   := withoutDiag s.resp
    events := s.events.filter notAddrMasked
    host   := { s.host with answers := s.host.answers.map answerWithoutDiag } }

/-- The state with CUR's fields that `op` does not use blanked (30_encoding.md R105). -/
def hideUnused (s : State) : State :=
  { s with cur :=
    { s.cur with
      mux   := if s.cur.mode = .direct then 0#8 else s.cur.mux
      wdata := if s.cur.op = .write then s.cur.wdata else 0#8
      n     := if s.cur.op.isBurst then s.cur.n else 0#16 } }

/-- Two sets of operands that agree on every field `op` uses (30_encoding.md R105). -/
abbrev sameUsedFields (op : Op) (f g : Fields) : Prop :=
  f.mode = g.mode ∧ f.addr = g.addr ∧ (f.mode = .multiplexed → f.mux = g.mux) ∧ (op = .write → f.wdata = g.wdata) ∧
    (op.isBurst = true → f.n = g.n)

/-- Bit 7 of the address a command was given (30_encoding.md R106). -/
def maskedBit (f : Fields) : BitVec 1 := BitVec.ofBool (f.addr.getLsbD 7)

/-- The WRITE frame of the table of 30_encoding.md R112. -/
def writeFrame (f : Fields) : List Byte :=
  match f.mode with
  | .direct => [0x01#8, 0x00#8, 0x05#8, 0x80#8 ||| (f.addr &&& 0x7F#8), f.wdata]
  | .multiplexed => [0x11#8, 0x00#8, 0x06#8, f.mux, 0x80#8 ||| (f.addr &&& 0x7F#8), f.wdata]

/-- The READ frame of the table of 30_encoding.md R112. -/
def readFrame (f : Fields) : List Byte :=
  match f.mode with
  | .direct => [0x02#8, 0x00#8, 0x05#8, f.addr &&& 0x7F#8, 0x00#8]
  | .multiplexed => [0x12#8, 0x00#8, 0x06#8, f.mux, f.addr &&& 0x7F#8, 0x00#8]

/-- The header of a BURST_WRITE frame (42_burst.md R204): T most significant byte first. -/
def burstWriteHeader (f : Fields) : List Byte :=
  match f.mode with
  | .direct => [0x03#8, BitVec.ofNat 8 ((4 + f.n.toNat) / 256), BitVec.ofNat 8 (4 + f.n.toNat), 0x80#8 ||| (f.addr &&& 0x7F#8)]
  | .multiplexed =>
    [0x13#8, BitVec.ofNat 8 ((5 + f.n.toNat) / 256), BitVec.ofNat 8 (5 + f.n.toNat), f.mux, 0x80#8 ||| (f.addr &&& 0x7F#8)]

/-- The header of a BURST_READ frame (42_burst.md R205). -/
def burstReadHeader (f : Fields) : List Byte :=
  match f.mode with
  | .direct => [0x04#8, BitVec.ofNat 8 ((4 + f.n.toNat) / 256), BitVec.ofNat 8 (4 + f.n.toNat), f.addr &&& 0x7F#8]
  | .multiplexed =>
    [0x14#8, BitVec.ofNat 8 ((5 + f.n.toNat) / 256), BitVec.ofNat 8 (5 + f.n.toNat), f.mux, f.addr &&& 0x7F#8]

/-- HDR once a header `hs` is in it: in Direct mode HDR[4] keeps its value (30_encoding.md R110). -/
def headerRegisters (m : Mode) (hs : List Byte) (old : Hdr) : Hdr :=
  ⟨hs.getD 0 0#8, hs.getD 1 0#8, hs.getD 2 0#8, hs.getD 3 0#8,
    match m with
    | .direct => old.b4
    | .multiplexed => hs.getD 4 0#8⟩

/-- The state right after a command is accepted (40_transaction.md R141, R145), register by register: CUR with access flag `w`, the
header `hs`, a frame of `t` bytes and its first segment `seg` in TXSEG. Every field not named is as it was. -/
def accepted (op : Op) (w : BitVec 1) (f : Fields) (hs : List Byte) (t : Nat) (seg : List Byte) (s : State) : State :=
  { s with
    phase      := .frameBuilt
    cur        := ⟨op, f.mode, f.mux, f.addr.setWidth 7, w, f.wdata, f.n⟩
    diag       := maskedBit f
    hdr        := headerRegisters f.mode hs s.hdr
    hReg       := BitVec.ofNat 3 hs.length
    tReg       := BitVec.ofNat 16 t
    kReg       := 0#16
    remReg     := BitVec.ofNat 16 t
    sReg       := BitVec.ofNat 16 seg.length
    chunksDone := 0#16
    txseg      := s.txseg.writeRange 0 seg
    events     := s.events ++ (if f.addr.getLsbD 7 then [.addrMasked f.addr] else []) ++
                    [.frameBuilt 0#16 (BitVec.ofNat 16 seg.length)] }

/-- The response word of a one-segment transaction of `t` bytes whose send was answered `a` and whose receive was answered `b`
(41_single_register.md R180, R181); `rdata` is what RDATA holds on success. -/
def singleResponse (diag : BitVec 1) (t : Nat) (a : SendAnswer) (b : RecvAnswer) (rdata : Byte) : Word :=
  if a ≠ .count t then packResp .transportError diag 2#4 0#8 0#8 0#16
  else
    match b with
    | .err => packResp .transportError diag 3#4 0#8 0#8 0#16
    | .bytes r =>
      if r.length < t then packResp .shortResponse diag 1#4 0#8 0#8 0#16
      else if t < r.length then packResp .shortResponse diag 2#4 0#8 0#8 0#16
      else if r.getD 0 0#8 ≠ 0xFF#8 then packResp .remoteNack diag 1#4 (r.getD 0 0#8) 0#8 1#16
      else packResp .ok diag 0#4 0#8 rdata 1#16

/-- The two states agree in every register and array a command latches or builds with (40_transaction.md R143). -/
abbrev sameLatch (s t : State) : Prop :=
  t.cur = s.cur ∧ t.hdr = s.hdr ∧ t.hReg = s.hReg ∧ t.tReg = s.tReg ∧ t.kReg = s.kReg ∧ t.remReg = s.remReg ∧ t.sReg = s.sReg

/-- The two states agree in the parameters, the input and the agents. -/
abbrev sameSurroundings (s t : State) : Prop :=
  t.params = s.params ∧ t.linkUp = s.linkUp ∧ t.host = s.host ∧ t.transport = s.transport ∧ t.wire = s.wire ∧ t.turns = s.turns

/-- The descriptor ends in FAILED with this RESULT and SUBCODE, and no I/O is done. -/
abbrev refusedWith (d : Word) (s : State) (r : BitVec 3) (sub : BitVec 4) : Prop :=
  ∃ t, present d s = .next t ∧ t.phase = .failed ∧ respResult t.resp = r ∧ respSubcode t.resp = sub ∧
    t.wire = s.wire ∧ t.transport = s.transport

/-- The rows of the table of 40_transaction.md R140. -/
def listedTransition (a b : Phase) : Bool :=
  match a, b with
  | .idle, .failed => true
  | .idle, .frameBuilt => true
  | .frameBuilt, .sent => true
  | .frameBuilt, .failed => true
  | .sent, .awaitingReply => true
  | .awaitingReply, .failed => true
  | .awaitingReply, .frameBuilt => true
  | .awaitingReply, .validated => true
  | .validated, .idle => true
  | .failed, .idle => true
  | _, _ => false

/-- The event records a step from `s` to `t` puts on the diagnostic port, each KIND, ARG0, ARG1 (60_exceptions.md R263, R264): on entry to
FRAME_BUILT the raw address byte of a command whose bit 7 was masked, then K and S; on entry to FAILED the error RESP reports. -/
def recordsEmitted (s t : State) : List (BitVec 40) :=
  if s.phase = t.phase then []
  else
    match t.phase with
    | .idle => []
    | .frameBuilt =>
      (if s.phase = .idle ∧ t.diag = 1#1 then [0x01#8 ++ (0x00#8 ++ (1#1 ++ t.cur.addr)) ++ 0x0000#16] else []) ++
        [0x02#8 ++ t.kReg ++ t.sReg]
    | .sent => []
    | .awaitingReply => []
    | .validated => []
    | .failed =>
      if respResult t.resp = 2#3 then [0x03#8 ++ (0x000#12 ++ respSubcode t.resp) ++ t.kReg]
      else if respResult t.resp = 3#3 then [0x04#8 ++ (0x000#12 ++ respSubcode t.resp) ++ t.kReg]
      else if respResult t.resp = 4#3 then [0x05#8 ++ (0x00#8 ++ respNackCode t.resp) ++ t.kReg]
      else []

/-- The next turn is the TRANSPORT's: it is listed, or, with no turn listed, the TRANSPORT is asked before the HOST (log 3). -/
abbrev transportTurn (s : State) : Prop := s.turns = [] ∨ s.turns.head? = some .transport

/-- The next turn is a reset (70_reset_and_hazards.md R280). -/
abbrev resetTurn (s : State) : Prop := s.turns.head? = some .reset

end Sys2Proof.Safety
end

