-- ==== Sys2Proof/Certificates/Slice0/Obligations.lean ====
section
/-! DEFINITION. The statements about the machine, from the spec's numbered rules. Each docstring says which rule it formalises. -/

open Sys2Proof Sys2Proof.Machine Sys2Proof.Config Sys2Proof.Safety

/-! Encoding. -/

/-- 30_encoding.md R101, R104: every command, with every operand at every value, decodes from its own descriptor. -/
def Obligations.DecodeInvertsEncode : Prop := ∀ i : Instr, decode (encode i) = .ok i

/-- 30_encoding.md R101, R104: a descriptor that decodes is the descriptor of what it decodes to; no bit is dropped. -/
def Obligations.EncodeInvertsDecode : Prop := ∀ (d : Word) (i : Instr), decode d = .ok i → encode i = d

/-- 30_encoding.md R104: decode is total, in the order of that rule, and the mask and match values say the same. -/
def Obligations.DecodeByMaskAndMatch : Prop :=
  ∀ d : Word,
    ((∃ f, decode d = .ok (.write f)) ↔ d &&& 0xFFFF0000000000F7#64 = 0#64) ∧
    ((∃ f, decode d = .ok (.read f)) ↔ d &&& 0xFFFF0000000000F7#64 = 1#64) ∧
    ((∃ f, decode d = .ok (.burstWrite f)) ↔ d &&& 0xFFFF0000000000F7#64 = 2#64) ∧
    ((∃ f, decode d = .ok (.burstRead f)) ↔ d &&& 0xFFFF0000000000F7#64 = 3#64) ∧
    (∀ i, decode d = .ok i →
      i.op.code.setWidth 3 = d.extractLsb' 0 3 ∧ i.fields.mode.bit = d.extractLsb' 3 1 ∧ i.fields.mux = d.extractLsb' 8 8 ∧
      i.fields.addr = d.extractLsb' 16 8 ∧ i.fields.wdata = d.extractLsb' 24 8 ∧ i.fields.n = d.extractLsb' 32 16) ∧
    (4 ≤ (d.extractLsb' 0 3).toNat → decode d = .error .reservedOp) ∧
    ((d.extractLsb' 0 3).toNat < 4 → d.extractLsb' 4 4 ≠ 0#4 ∨ d.extractLsb' 48 16 ≠ 0#16 → decode d = .error .reservedBits) ∧
    (∀ s : State, s.phase = .idle → 4 ≤ (d &&& 0xFFFF0000000000F7#64).toNat →
      refusedWith d s 1#3 (if 4 ≤ (d.extractLsb' 0 3).toNat then 1#4 else 2#4))

/-- 30_encoding.md R121: the worked encodings decode to the commands the assembly names. -/
def Obligations.WorkedDescriptorsDecode : Prop :=
  decode 0x0000000042050000#64 = .ok (.write ⟨.direct, 0x00#8, 0x05#8, 0x42#8, 0#16⟩) ∧
  decode 0x0000000042050208#64 = .ok (.write ⟨.multiplexed, 0x02#8, 0x05#8, 0x42#8, 0#16⟩) ∧
  decode 0x0000000000050001#64 = .ok (.read ⟨.direct, 0x00#8, 0x05#8, 0x00#8, 0#16⟩) ∧
  decode 0x00000000007F0109#64 = .ok (.read ⟨.multiplexed, 0x01#8, 0x7F#8, 0x00#8, 0#16⟩) ∧
  decode 0x000009C400200002#64 = .ok (.burstWrite ⟨.direct, 0x00#8, 0x20#8, 0x00#8, 2500#16⟩) ∧
  decode 0x000000030020010B#64 = .ok (.burstRead ⟨.multiplexed, 0x01#8, 0x20#8, 0x00#8, 3#16⟩)

/-- 30_encoding.md R119: each of the eight command lines, its operands in range, gives a descriptor that decodes to the command with
those operands and 0 in every field the line does not name; out of range is an assembly error. -/
def Obligations.AssembledLinesDecode : Prop :=
  ∀ mux addr data n : Nat,
    (mux ≤ 255 → addr ≤ 255 → data ≤ 255 → n ≤ 65535 →
      (∃ d, assembleCommand .write .direct [addr, data] = .word d ∧
        decode d = .ok (.write ⟨.direct, 0#8, BitVec.ofNat 8 addr, BitVec.ofNat 8 data, 0#16⟩)) ∧
      (∃ d, assembleCommand .write .multiplexed [mux, addr, data] = .word d ∧
        decode d = .ok (.write ⟨.multiplexed, BitVec.ofNat 8 mux, BitVec.ofNat 8 addr, BitVec.ofNat 8 data, 0#16⟩)) ∧
      (∃ d, assembleCommand .read .direct [addr] = .word d ∧
        decode d = .ok (.read ⟨.direct, 0#8, BitVec.ofNat 8 addr, 0#8, 0#16⟩)) ∧
      (∃ d, assembleCommand .read .multiplexed [mux, addr] = .word d ∧
        decode d = .ok (.read ⟨.multiplexed, BitVec.ofNat 8 mux, BitVec.ofNat 8 addr, 0#8, 0#16⟩)) ∧
      (∃ d, assembleCommand .burstWrite .direct [addr, n] = .word d ∧
        decode d = .ok (.burstWrite ⟨.direct, 0#8, BitVec.ofNat 8 addr, 0#8, BitVec.ofNat 16 n⟩)) ∧
      (∃ d, assembleCommand .burstWrite .multiplexed [mux, addr, n] = .word d ∧
        decode d = .ok (.burstWrite ⟨.multiplexed, BitVec.ofNat 8 mux, BitVec.ofNat 8 addr, 0#8, BitVec.ofNat 16 n⟩)) ∧
      (∃ d, assembleCommand .burstRead .direct [addr, n] = .word d ∧
        decode d = .ok (.burstRead ⟨.direct, 0#8, BitVec.ofNat 8 addr, 0#8, BitVec.ofNat 16 n⟩)) ∧
      (∃ d, assembleCommand .burstRead .multiplexed [mux, addr, n] = .word d ∧
        decode d = .ok (.burstRead ⟨.multiplexed, BitVec.ofNat 8 mux, BitVec.ofNat 8 addr, 0#8, BitVec.ofNat 16 n⟩))) ∧
    (255 < addr → assembleCommand .write .direct [addr, data] = .error ∧ assembleCommand .read .direct [addr] = .error) ∧
    (255 < data → assembleCommand .write .multiplexed [mux, addr, data] = .error) ∧
    (255 < mux → assembleCommand .read .multiplexed [mux, addr] = .error ∧
      assembleCommand .burstWrite .multiplexed [mux, addr, n] = .error) ∧
    (65535 < n → assembleCommand .burstWrite .direct [addr, n] = .error ∧ assembleCommand .burstRead .direct [addr, n] = .error)

/-! The logical frame. -/

/-- 30_encoding.md R107: the wire opcode is (MODE << 4) | (OP + 1), the eight values of the table, and byte 0 of every frame. -/
def Obligations.WireOpcodeValues : Prop :=
  (∀ (op : Op) (m : Mode), wireOpcode op m = (m.bit.setWidth 8 <<< 4) ||| (op.code.setWidth 8 + 1#8)) ∧
  (wireOpcode .write .direct = 0x01#8 ∧ wireOpcode .write .multiplexed = 0x11#8) ∧
  (wireOpcode .read .direct = 0x02#8 ∧ wireOpcode .read .multiplexed = 0x12#8) ∧
  (wireOpcode .burstWrite .direct = 0x03#8 ∧ wireOpcode .burstWrite .multiplexed = 0x13#8) ∧
  (wireOpcode .burstRead .direct = 0x04#8 ∧ wireOpcode .burstRead .multiplexed = 0x14#8) ∧
  (∀ (op : Op) (f : Fields) (s : State), lbyte (latch op f s) 0 = some (wireOpcode op f.mode))

/-- 30_encoding.md R108: the address byte is (ADDR & 0x7F) | (W << 7), the last byte of the header, the same for ADDR and
ADDR | 0x80. -/
def Obligations.AddressByteValue : Prop :=
  ∀ (op : Op) (f : Fields) (s : State),
    addressByte (latchCur op f) = (f.addr &&& 0x7F#8) ||| ((accessFlag op).setWidth 8 <<< 7) ∧
    lbyte (latch op f s) (headerLen f.mode - 1) = some ((f.addr &&& 0x7F#8) ||| ((accessFlag op).setWidth 8 <<< 7)) ∧
    addressByte (latchCur op { f with addr := f.addr ||| 0x80#8 }) = addressByte (latchCur op f)

/-- 30_encoding.md R109, 00_scope.md R10: T is the whole frame's length and fits 16 bits, and the two LEN bytes, most significant first,
read back as T. -/
def Obligations.LenFieldRoundTrips : Prop :=
  ∀ (op : Op) (f : Fields) (s : State), s.params.legal → (op.isBurst = true → f.n.toNat ≤ s.params.bufSize) →
    (latch op f s).tReg.toNat = headerLen f.mode + (if op.isBurst then f.n.toNat else 1) ∧
    (∃ hi lo : Byte, lbyte (latch op f s) 1 = some hi ∧ lbyte (latch op f s) 2 = some lo ∧
      hi = (latch op f s).tReg.extractLsb' 8 8 ∧ lo = (latch op f s).tReg.extractLsb' 0 8 ∧
      hi.toNat * 256 + lo.toNat = headerLen f.mode + (if op.isBurst then f.n.toNat else 1))

/-- 30_encoding.md R110, R111: the header bytes in wire order, four in Direct mode and five in Multiplexed mode. -/
def Obligations.HeaderInWireOrder : Prop :=
  ∀ (op : Op) (f : Fields) (s : State),
    (f.mode = .direct →
      (latch op f s).hReg = 4#3 ∧
      (latch op f s).hdr.toList.take 4 =
        [wireOpcode op .direct, lenHi (latch op f s).tReg, lenLo (latch op f s).tReg, addressByte (latch op f s).cur]) ∧
    (f.mode = .multiplexed →
      (latch op f s).hReg = 5#3 ∧
      (latch op f s).hdr.toList =
        [wireOpcode op .multiplexed, lenHi (latch op f s).tReg, lenLo (latch op f s).tReg, f.mux,
          addressByte (latch op f s).cur])

/-- 30_encoding.md R114, 40_transaction.md R145: the bytes a segment is built of are the serializer function's, position by position;
they are missing exactly when one of the positions has no value. -/
def Obligations.SegmentBytesAreSerializerBytes : Prop :=
  ∀ (s : State) (g n : Nat), s.hReg.toNat ≤ 5 → s.txbuf.wf →
    requestBytes s g n = (List.range' g n).mapM (lbyte s)

/-- 42_burst.md R200-R203: the segments of a frame, in order, are the frame: none is empty, none is larger than C, the last has T mod C
bytes or C, and their bytes one after the other are the frame's; after the header, a BURST_WRITE's are TXBUF[0..N). -/
def Obligations.SegmentsTileTheFrame : Prop :=
  ∀ (s : State) (frame : List Byte), s.params.legal → s.hReg.toNat ≤ 5 → s.txbuf.wf → s.hReg.toNat < s.tReg.toNat →
    requestBytes s 0 s.tReg.toNat = some frame →
    (∀ k < segmentCount s.params.chunkMax s.tReg.toNat,
      1 ≤ sizeOfSegment s.params.chunkMax s.tReg.toNat k ∧
      sizeOfSegment s.params.chunkMax s.tReg.toNat k ≤ s.params.chunkMax) ∧
    sizeOfSegment s.params.chunkMax s.tReg.toNat (segmentCount s.params.chunkMax s.tReg.toNat - 1) =
      (if s.tReg.toNat % s.params.chunkMax = 0 then s.params.chunkMax else s.tReg.toNat % s.params.chunkMax) ∧
    ((List.range (segmentCount s.params.chunkMax s.tReg.toNat)).mapM
      (fun k => requestBytes s (k * s.params.chunkMax) (sizeOfSegment s.params.chunkMax s.tReg.toNat k))).map List.flatten =
      some frame ∧
    (s.cur.op = .burstWrite → s.txbuf.readRange 0 (s.tReg.toNat - s.hReg.toNat) = some (frame.drop s.hReg.toNat))

/-! Acceptance of each command. -/

/-- 40_transaction.md R141, R145, 30_encoding.md R112, 41_single_register.md R180: a WRITE in IDLE with the link up is accepted: CUR, the
header registers, one segment with the frame of R112, and nothing else. -/
def Obligations.WriteAccepted : Prop :=
  ∀ (f : Fields) (s : State), s.params.legal → s.phase = .idle → s.linkUp = true →
    exec (.write f) s = .next (accepted .write 1#1 f ((writeFrame f).dropLast) (writeFrame f).length (writeFrame f) s)

/-- 40_transaction.md R141, R145, 30_encoding.md R112, 41_single_register.md R181: the same for READ. -/
def Obligations.ReadAccepted : Prop :=
  ∀ (f : Fields) (s : State), s.params.legal → s.phase = .idle → s.linkUp = true →
    exec (.read f) s = .next (accepted .read 0#1 f ((readFrame f).dropLast) (readFrame f).length (readFrame f) s)

/-- 40_transaction.md R141, R145, 42_burst.md R204: a BURST_WRITE of 1..BUF_SIZE bytes in IDLE with the link up and the payload of its
first segment in TXBUF is accepted; segment 0 is the header and the first payload bytes. -/
def Obligations.BurstWriteAccepted : Prop :=
  ∀ (f : Fields) (s : State) (pay : List Byte), s.params.legal → s.phase = .idle → s.linkUp = true →
    1 ≤ f.n.toNat → f.n.toNat ≤ s.params.bufSize →
    s.txbuf.readRange 0 (min (s.params.chunkMax - (burstWriteHeader f).length) f.n.toNat) = some pay →
    exec (.burstWrite f) s =
      .next (accepted .burstWrite 1#1 f (burstWriteHeader f) ((burstWriteHeader f).length + f.n.toNat)
        (burstWriteHeader f ++ pay) s)

/-- 40_transaction.md R141, R145, 42_burst.md R205: a BURST_READ of 1..BUF_SIZE bytes in IDLE with the link up is accepted; segment 0 is
the header and FILL bytes. -/
def Obligations.BurstReadAccepted : Prop :=
  ∀ (f : Fields) (s : State), s.params.legal → s.phase = .idle → s.linkUp = true →
    1 ≤ f.n.toNat → f.n.toNat ≤ s.params.bufSize →
    exec (.burstRead f) s =
      .next (accepted .burstRead 0#1 f (burstReadHeader f) ((burstReadHeader f).length + f.n.toNat)
        (burstReadHeader f ++ List.replicate (min (s.params.chunkMax - (burstReadHeader f).length) f.n.toNat) 0x00#8) s)

/-- 20_memory.md R66, 40_transaction.md R145, 42_burst.md R204: a BURST_WRITE faults at the build of the segment that needs a TXBUF byte
with no value: at acceptance when that is the first segment, else in the step that receives the reply to the segment before it. -/
def Obligations.UnwrittenPayloadFaults : Prop :=
  (∀ (f : Fields) (s : State) (j : Nat), s.params.legal → s.phase = .idle → s.linkUp = true →
    1 ≤ f.n.toNat → f.n.toNat ≤ s.params.bufSize →
    j < min (s.params.chunkMax - headerLen f.mode) f.n.toNat → s.txbuf.read j = none →
    exec (.burstWrite f) s = .fault (.framerNoValue .txbuf)) ∧
  (∀ (s : State) (ts : List Turn) (r : List Byte) (sends : List SendAnswer) (recvs : List RecvAnswer) (j : Nat),
    s.params.legal → transactionGeometry s → s.turns = .transport :: ts → s.transport = .free sends (.bytes r :: recvs) →
    s.phase = .awaitingReply → s.cur.op = .burstWrite → r.length = s.sReg.toNat → s.sReg.toNat < s.remReg.toNat →
    (statusRequired s.params.burstWriteStatus .burstWrite false = true → r.head? = some 0xFF#8) →
    segmentStart s + s.sReg.toNat ≤ s.hReg.toNat + j →
    s.hReg.toNat + j < segmentStart s + s.sReg.toNat + min s.params.chunkMax (s.remReg.toNat - s.sReg.toNat) →
    s.txbuf.read j = none → step s = .fault (.framerNoValue .txbuf))

/-- The frame of WRITE, READ, BURST_WRITE and BURST_READ (40_transaction.md R141, 10_state.md R34-R36): acceptance changes no byte of
TXBUF, RXBUF, STG or RXSEG, and nothing outside the FRAMER; of TXSEG only the S = min(C, T) bytes of segment 0, and RESP not at all,
when the command goes on; when it fails its checks, no byte of TXSEG and nothing that is latched. -/
def Obligations.AcceptanceFrame : Prop :=
  ∀ (i : Instr) (s t : State), s.params.legal → s.phase = .idle → exec i s = .next t →
    sameSurroundings s t ∧
    (∀ j, t.txbuf.read j = s.txbuf.read j ∧ t.rxbuf.read j = s.rxbuf.read j ∧ t.stg.read j = s.stg.read j ∧
      t.rxseg.read j = s.rxseg.read j) ∧
    (t.phase = .frameBuilt ∧ t.resp = s.resp ∧
        (∀ j, min s.params.chunkMax (frameLen i.op i.fields.mode i.fields.n) ≤ j → t.txseg.read j = s.txseg.read j) ∨
      t.phase = .failed ∧ sameLatch s t ∧ ∀ j, t.txseg.read j = s.txseg.read j)

/-- 40_transaction.md R143: the checks read only the descriptor, link_up and BUF_SIZE; after a failed one nothing is latched, and DIAG and
CHUNKS_DONE read 0 in the response. -/
def Obligations.FailedChecksLatchNothing : Prop :=
  ∀ (d : Word) (s t : State), s.phase = .idle → present d s = .next t → t.phase = .failed →
    sameLatch s t ∧ respDiag t.resp = 0#1 ∧ respChunksDone t.resp = 0#16 ∧
    ∀ s' : State, s'.phase = .idle → s'.linkUp = s.linkUp → s'.params.bufSize = s.params.bufSize →
      ∃ t', present d s' = .next t' ∧ t'.phase = .failed ∧ t'.resp = t.resp

/-- 40_transaction.md R142: the checks before I/O in their order, the first that applies deciding; a descriptor that passes them all has
its first segment built, or faults for want of a TXBUF byte. -/
def Obligations.ChecksBeforeIoInOrder : Prop :=
  ∀ (d : Word) (s : State), s.phase = .idle →
    if 4 ≤ (d.extractLsb' 0 3).toNat then refusedWith d s 1#3 1#4
    else if d.extractLsb' 4 4 ≠ 0#4 ∨ d.extractLsb' 48 16 ≠ 0#16 then refusedWith d s 1#3 2#4
    else if 2 ≤ (d.extractLsb' 0 3).toNat ∧ d.extractLsb' 32 16 = 0#16 then refusedWith d s 1#3 3#4
    else if 2 ≤ (d.extractLsb' 0 3).toNat ∧ s.params.bufSize < (d.extractLsb' 32 16).toNat then refusedWith d s 5#3 1#4
    else if s.linkUp = false then refusedWith d s 2#3 1#4
    else (∃ t, present d s = .next t ∧ t.phase = .frameBuilt) ∨ present d s = .fault (.framerNoValue .txbuf)

/-- 40_transaction.md R142, 60_exceptions.md R250, R264: the response words and events of the three checks a command can fail, for every
command they apply to. -/
def Obligations.FailedCheckResponses : Prop :=
  ∀ (i : Instr) (s : State), s.phase = .idle → idleClean s →
    (i.op.isBurst = true → i.fields.n = 0#16 →
      ∃ t, exec i s = .next t ∧ t.phase = .failed ∧ t.resp = 0x31#64 ∧ t.events = s.events) ∧
    (i.op.isBurst = true → i.fields.n ≠ 0#16 → s.params.bufSize < i.fields.n.toNat →
      ∃ t, exec i s = .next t ∧ t.phase = .failed ∧ t.resp = 0x15#64 ∧ t.events = s.events) ∧
    ((i.op.isBurst = true → i.fields.n ≠ 0#16 ∧ i.fields.n.toNat ≤ s.params.bufSize) → s.linkUp = false →
      ∃ t, exec i s = .next t ∧ t.phase = .failed ∧ t.resp = 0x12#64 ∧ t.events = s.events ++ [.ioError 1#4 0#16])

/-! The steps of a transaction. -/

/-- 40_transaction.md R141, 10_state.md R32: when the FRAMER is in IDLE and the HOST's next action is to present a descriptor that decodes
to a command, the step is that command's meaning, with the HOST's action, and the turn if one was listed, used up. -/
def Obligations.StepRunsPresentedCommand : Prop :=
  ∀ (s : State) (d : Word) (rest : List HostOp) (i : Instr),
    s.phase = .idle → s.host.program = .issue d :: rest → decode d = .ok i →
    (s.turns = [] → step s = exec i { s with host := ⟨rest, s.host.answers⟩ }) ∧
    (∀ ts, s.turns = .host :: ts → step s = exec i { s with turns := ts, host := ⟨rest, s.host.answers⟩ })

/-- 40_transaction.md R156: the command port is ready exactly in IDLE; in any other state the descriptor is not taken, the HOST keeps it
and nothing but the turn is used up; and the command of the transaction under way stays the one it was. -/
def Obligations.CommandWaitsUnlessIdle : Prop :=
  (∀ (s : State) (d : Word) (rest : List HostOp) (ts : List Turn), s.turns = .host :: ts → s.host.program = .issue d :: rest →
    (s.phase ≠ .idle → step s = .next { s with turns := ts }) ∧
    (s.phase = .idle → step s = present d { s with turns := ts, host := ⟨rest, s.host.answers⟩ })) ∧
  (∀ s t : State, step s = .next t → s.phase.busy = true → t.phase.busy = true → t.cur = s.cur)

/-- 40_transaction.md R146: in FRAME_BUILT the TRANSPORT's answer to the send of TXSEG[0..S) leads to SENT for Count(S) and to
TRANSPORT_ERROR, SUBCODE 2, for every other answer; in SENT, IDLE, VALIDATED and FAILED there is no such step. -/
def Obligations.SendAnswered : Prop :=
  ∀ (s : State) (ts : List Turn) (a : SendAnswer) (sends : List SendAnswer) (recvs : List RecvAnswer) (seg : List Byte),
    s.turns = .transport :: ts → s.transport = .free (a :: sends) recvs → s.txseg.readRange 0 s.sReg.toNat = some seg →
    (s.phase = .frameBuilt →
      step s = .next
        (if a = .count s.sReg.toNat then
          { s with turns := ts, transport := .free sends recvs, wire := s.wire ++ [seg], phase := .sent }
        else raise .transportError 2#4 0#8 { s with turns := ts, transport := .free sends recvs, wire := s.wire ++ [seg] })) ∧
    (s.phase ≠ .frameBuilt → s.phase ≠ .awaitingReply → step s = .next { s with turns := ts })

/-- 40_transaction.md R147: IssueReceive is the FRAMER's step in SENT and in no other state. -/
def Obligations.ReceiveIssuedInSent : Prop :=
  ∀ (s : State) (ts : List Turn), s.turns = .framer :: ts →
    (s.phase = .sent → step s = .next { s with turns := ts, phase := .awaitingReply }) ∧
    (s.phase ≠ .sent → step s = .next { s with turns := ts })

/-- 40_transaction.md R149: in AWAITING_REPLY, Err before length; a reply of the exact length is in RXSEG, counted, and validated in the
same step. -/
def Obligations.ReceiveAnswered : Prop :=
  ∀ (s : State) (ts : List Turn) (a : RecvAnswer) (sends : List SendAnswer) (recvs : List RecvAnswer),
    s.turns = .transport :: ts → s.transport = .free sends (a :: recvs) → s.phase = .awaitingReply →
    (a = .err → step s = .next (raise .transportError 3#4 0#8 { s with turns := ts, transport := .free sends recvs })) ∧
    (∀ r, a = .bytes r →
      (r.length < s.sReg.toNat →
        step s = .next (raise .shortResponse 1#4 0#8 { s with turns := ts, transport := .free sends recvs })) ∧
      (s.sReg.toNat < r.length →
        step s = .next (raise .shortResponse 2#4 0#8 { s with turns := ts, transport := .free sends recvs })) ∧
      (r.length = s.sReg.toNat →
        step s = validate
          { s with turns := ts, transport := .free sends recvs, rxseg := s.rxseg.writeRange 0 r,
                   chunksDone := s.chunksDone + 1#16 } ∧
        (∀ j < r.length, (s.rxseg.writeRange 0 r).read j = r[j]?) ∧
        (∀ j, r.length ≤ j → (s.rxseg.writeRange 0 r).read j = s.rxseg.read j)))

/-- 40_transaction.md R158: which replies must carry the success marker. -/
def Obligations.StatusPolicy : Prop :=
  ∀ (p : BurstWriteStatus) (last : Bool),
    statusRequired p .write last = true ∧ statusRequired p .read last = true ∧
    (statusRequired p .burstWrite last = true ↔ p = .every ∨ p = .last ∧ last = true) ∧
    statusRequired p .burstRead last = false

/-- 40_transaction.md R150, 60_exceptions.md R244: a reply of the exact length that must carry the success marker and does not ends the
transaction with PROTOCOL_REMOTE_NACK, SUBCODE 1 and the byte received; the segment counts. -/
def Obligations.WrongStatusByteFails : Prop :=
  ∀ (s : State) (ts : List Turn) (v : Byte) (r : List Byte) (sends : List SendAnswer) (recvs : List RecvAnswer),
    s.turns = .transport :: ts → s.transport = .free sends (.bytes (v :: r) :: recvs) → s.phase = .awaitingReply →
    r.length + 1 = s.sReg.toNat → v ≠ 0xFF#8 →
    statusRequired s.params.burstWriteStatus s.cur.op (s.remReg = s.sReg) = true →
    ∃ t, step s = .next t ∧ t.phase = .failed ∧ respResult t.resp = 4#3 ∧ respSubcode t.resp = 1#4 ∧ respNackCode t.resp = v ∧
      respDiag t.resp = s.diag ∧ respChunksDone t.resp = s.chunksDone + 1#16 ∧ t.events = s.events ++ [.remoteNack v s.kReg] ∧
      t.txbuf = s.txbuf ∧ t.rxbuf = s.rxbuf ∧ t.stg = s.stg ∧ t.txseg = s.txseg ∧ sameLatch s t

/-- 40_transaction.md R151, R153: in a transaction of at least one more segment, a reply of the exact length that passes its check leads
to FRAME_BUILT with segment K + 1 built, REM less by S, and a BURST_READ's data bytes staged, no other byte of STG changed. -/
def Obligations.AcceptedSegmentBuildsNext : Prop :=
  ∀ (s : State) (ts : List Turn) (r : List Byte) (sends : List SendAnswer) (recvs : List RecvAnswer) (seg : List Byte),
    s.params.legal → transactionGeometry s → s.turns = .transport :: ts → s.transport = .free sends (.bytes r :: recvs) →
    s.phase = .awaitingReply → r.length = s.sReg.toNat → s.sReg.toNat < s.remReg.toNat →
    (statusRequired s.params.burstWriteStatus s.cur.op false = true → r.head? = some 0xFF#8) →
    requestBytes s (segmentStart s + s.sReg.toNat) (min s.params.chunkMax (s.remReg.toNat - s.sReg.toNat)) = some seg →
    ∃ t, step s = .next t ∧ t.phase = .frameBuilt ∧ t.kReg.toNat = s.kReg.toNat + 1 ∧
      t.remReg.toNat = s.remReg.toNat - s.sReg.toNat ∧
      t.sReg.toNat = min s.params.chunkMax (s.remReg.toNat - s.sReg.toNat) ∧ t.chunksDone = s.chunksDone + 1#16 ∧
      t.txseg = s.txseg.writeRange 0 seg ∧ t.events = s.events ++ [.frameBuilt t.kReg t.sReg] ∧
      t.cur = s.cur ∧ t.hdr = s.hdr ∧ t.hReg = s.hReg ∧ t.tReg = s.tReg ∧ t.diag = s.diag ∧ t.resp = s.resp ∧
      t.txbuf = s.txbuf ∧ t.rxbuf = s.rxbuf ∧
      (s.cur.op = .burstRead →
        (∀ j < s.sReg.toNat, s.hReg.toNat ≤ segmentStart s + j → t.stg.read (segmentStart s + j - s.hReg.toNat) = r[j]?) ∧
        ∀ i, i + s.hReg.toNat < segmentStart s ∨ segmentStart s + s.sReg.toNat ≤ i + s.hReg.toNat → t.stg.read i = s.stg.read i) ∧
      (s.cur.op ≠ .burstRead → t.stg = s.stg)

/-- 40_transaction.md R152, 20_memory.md R69(c), 70_reset_and_hazards.md R287: the last reply of each of the four commands, of the exact
length and with the success marker where one is required, ends the transaction in VALIDATED with RESULT = OK. RDATA is reply byte T - 1
for a READ and 0x00 for the others; a BURST_READ writes RXBUF[0..N) in that one step, from what was staged and from the reply itself, and
no byte at N or above; the others write no byte of RXBUF and STG. -/
def Obligations.LastReplyCommits : Prop :=
  ∀ (s : State) (ts : List Turn) (r : List Byte) (sends : List SendAnswer) (recvs : List RecvAnswer),
    s.params.legal → s.stg.wf → transactionGeometry s → repliesStaged s → s.turns = .transport :: ts →
    s.transport = .free sends (.bytes r :: recvs) → s.phase = .awaitingReply →
    r.length = s.sReg.toNat → s.remReg = s.sReg →
    (statusRequired s.params.burstWriteStatus s.cur.op true = true → r.head? = some 0xFF#8) →
    ∃ t, step s = .next t ∧ t.phase = .validated ∧
      t.resp = packResp .ok s.diag 0#4 0#8 (if s.cur.op = .read then r.getD (s.tReg.toNat - 1) 0#8 else 0#8)
        (s.chunksDone + 1#16) ∧
      t.chunksDone = s.chunksDone + 1#16 ∧ t.remReg = 0#16 ∧ t.kReg = s.kReg + 1#16 ∧ t.events = s.events ∧
      t.txbuf = s.txbuf ∧ t.txseg = s.txseg ∧ t.cur = s.cur ∧ t.hdr = s.hdr ∧ t.hReg = s.hReg ∧ t.tReg = s.tReg ∧ t.diag = s.diag ∧
      (s.cur.op = .read → r[s.tReg.toNat - 1]? ≠ none) ∧
      (s.cur.op = .burstRead →
        (∀ i < s.cur.n.toNat,
          t.rxbuf.read i =
            if i < segmentStart s - s.hReg.toNat then s.stg.read i else r[i + s.hReg.toNat - segmentStart s]?) ∧
        ∀ i, s.cur.n.toNat ≤ i → t.rxbuf.read i = s.rxbuf.read i) ∧
      (s.cur.op ≠ .burstRead → t.rxbuf = s.rxbuf ∧ t.stg = s.stg)

/-- 60_exceptions.md R250: entering FAILED writes RESP from the result, SUBCODE, DIAG, NACK_CODE and CHUNKS_DONE, emits the event of the
result, and changes nothing else. -/
def Obligations.RaiseRecordsFailure : Prop :=
  ∀ (r : Result) (sub : BitVec 4) (v : Byte) (s : State), r ≠ .ok →
    (raise r sub v s).phase = .failed ∧
    respResult (raise r sub v s).resp = r.code ∧ respDiag (raise r sub v s).resp = s.diag ∧
    respSubcode (raise r sub v s).resp = sub ∧ respNackCode (raise r sub v s).resp = (if r = .remoteNack then v else 0#8) ∧
    respRdata (raise r sub v s).resp = 0#8 ∧ respChunksDone (raise r sub v s).resp = s.chunksDone ∧
    (r = .transportError → (raise r sub v s).events = s.events ++ [.ioError sub s.kReg]) ∧
    (r = .shortResponse → (raise r sub v s).events = s.events ++ [.shortResponse sub s.kReg]) ∧
    (r = .remoteNack → (raise r sub v s).events = s.events ++ [.remoteNack v s.kReg]) ∧
    (r = .invalidArgument ∨ r = .resourceError → (raise r sub v s).events = s.events) ∧
    raise r sub v s =
      { s with phase := .failed, resp := (raise r sub v s).resp, events := (raise r sub v s).events }

/-- 40_transaction.md R154: the response handshake, enabled in VALIDATED and FAILED only: the HOST receives RESP, which stays, and the
FRAMER is in IDLE with its working state cleared. -/
def Obligations.ResponseHandshake : Prop :=
  ∀ (s : State) (rest : List HostOp) (ts : List Turn), s.turns = .host :: ts → s.host.program = .takeResponse :: rest →
    (s.phase = .validated ∨ s.phase = .failed →
      step s = .next
        { s with turns := ts, host := ⟨rest, s.host.answers ++ [.response s.resp]⟩, phase := .idle, hdr := ⟨0, 0, 0, 0, 0⟩,
                 hReg := 0, tReg := 0, kReg := 0, remReg := 0, sReg := 0, txseg := [], rxseg := [], stg := [] }) ∧
    (s.phase ≠ .validated → s.phase ≠ .failed → step s = .next { s with turns := ts })

/-- 40_transaction.md R155: every entry to IDLE clears the working state; at the handshake CUR, DIAG, CHUNKS_DONE, RESP, TXBUF and RXBUF
are not cleared. -/
def Obligations.EntryToIdleClears : Prop :=
  ∀ s t : State, step s = .next t → s.phase ≠ .idle → t.phase = .idle →
    workingCleared t ∧
    (¬ resetTurn s →
      t.cur = s.cur ∧ t.diag = s.diag ∧ t.chunksDone = s.chunksDone ∧ t.resp = s.resp ∧ t.txbuf = s.txbuf ∧ t.rxbuf = s.rxbuf)

/-- 70_reset_and_hazards.md R280, 10_state.md R41: reset in any state is one step to the values of R41, with no response and no answer
delivered. That the diagnostic history is emptied is log 7, and that `link_up` and the HOST are left alone is log 8. -/
def Obligations.ResetFromAnyState : Prop :=
  ∀ (s : State) (ts : List Turn), s.turns = .reset :: ts →
    ∃ t, step s = .next t ∧ t.phase = .idle ∧ t.cur = ⟨.write, .direct, 0, 0, 0, 0, 0⟩ ∧ t.diag = 0#1 ∧ workingCleared t ∧
      t.chunksDone = 0#16 ∧ t.resp = 0#64 ∧ t.txbuf = [] ∧ t.rxbuf = [] ∧ t.events = [] ∧
      t.host = s.host ∧ t.wire = s.wire ∧ t.params = s.params ∧ t.linkUp = s.linkUp ∧ t.turns = ts

/-- 10_state.md R41: the FRAMER right after reset, STATUS for either value of link_up among it; no byte of any array has a value. -/
def Obligations.ResetValues : Prop :=
  State.reset.phase = .idle ∧ State.reset.cur = ⟨.write, .direct, 0, 0, 0, 0, 0⟩ ∧ State.reset.diag = 0#1 ∧
  State.reset.hdr = ⟨0, 0, 0, 0, 0⟩ ∧ State.reset.hReg = 0#3 ∧ State.reset.tReg = 0#16 ∧ State.reset.kReg = 0#16 ∧
  State.reset.remReg = 0#16 ∧ State.reset.sReg = 0#16 ∧ State.reset.chunksDone = 0#16 ∧ State.reset.resp = 0#64 ∧
  respValid State.reset = 0#1 ∧
  (∀ v : Bool, statusWord { State.reset with linkUp := v } = if v then 0x10#8 else 0x00#8) ∧
  (∀ i, State.reset.txbuf.read i = none ∧ State.reset.rxbuf.read i = none ∧ State.reset.stg.read i = none ∧
    State.reset.txseg.read i = none ∧ State.reset.rxseg.read i = none) ∧
  State.reset.events = []

/-- 40_transaction.md R157: a TRANSPORT that never answers leaves the FRAMER in FRAME_BUILT or AWAITING_REPLY for ever; the model keeps
the hang. That an empty list of answers is such a TRANSPORT is log 5. -/
def Obligations.HangIsKept : Prop :=
  ∀ (s : State) (seg : List Byte), s.turns = [] → s.host.program = [] → s.transport = .free [] [] →
    s.txseg.readRange 0 s.sReg.toNat = some seg → s.phase = .frameBuilt ∨ s.phase = .awaitingReply →
    ∀ k, Sys2Proof.core.run k s = .next s

/-! Rules about every step. -/

/-- 40_transaction.md R140: no step moves STATE but along a row of the table, and reset to IDLE. -/
def Obligations.OnlyListedTransitions : Prop :=
  ∀ s t : State, step s = .next t →
    t.phase = s.phase ∨ listedTransition s.phase t.phase = true ∨ resetTurn s ∧ t.phase = .idle

/-- 10_state.md R34, 20_memory.md R61, R75: no step but a reset or a HOST write outside a transaction, inside BUF_SIZE, changes TXBUF. -/
def Obligations.TxbufWrittenOnlyByHost : Prop :=
  ∀ s t : State, step s = .next t → t.txbuf ≠ s.txbuf →
    resetTurn s ∨
      ∃ i v rest, s.host.program = .writeTx i v :: rest ∧ s.phase.busy = false ∧ i.toNat < s.params.bufSize ∧
        t.txbuf = s.txbuf.write i.toNat v ∧ t.host.program = rest

/-- 10_state.md R35, 40_transaction.md R160, 70_reset_and_hazards.md R287: no step but a reset or the commit of a BURST_READ changes
RXBUF, and the commit changes no byte at N or above. -/
def Obligations.RxbufWrittenOnlyByCommit : Prop :=
  ∀ s t : State, step s = .next t → t.rxbuf ≠ s.rxbuf →
    resetTurn s ∨
      (s.phase = .awaitingReply ∧ t.phase = .validated ∧ s.cur.op = .burstRead ∧
        ∀ i, s.cur.n.toNat ≤ i → t.rxbuf.read i = s.rxbuf.read i)

/-- 10_state.md R28: RESP is written only by a reset or in the step that enters VALIDATED or FAILED. -/
def Obligations.RespWrittenOnlyAtCompletion : Prop :=
  ∀ s t : State, step s = .next t → t.resp ≠ s.resp →
    resetTurn s ∨ s.phase.done = false ∧ t.phase.done = true

/-- 10_state.md R22: CUR is written only by a reset or by an acceptance that passes its checks. -/
def Obligations.CurLatchedOnlyAtAcceptance : Prop :=
  ∀ s t : State, step s = .next t → t.cur ≠ s.cur →
    resetTurn s ∨
      s.phase = .idle ∧ t.phase = .frameBuilt ∧
        ∃ d rest i, s.host.program = .issue d :: rest ∧ decode d = .ok i ∧ t.cur = latchCur i.op i.fields

/-- 00_scope.md R9, 10_state.md R33: no step changes a parameter, and none but the input event changes link_up. -/
def Obligations.ParametersAndLinkStay : Prop :=
  ∀ s t : State, step s = .next t →
    t.params = s.params ∧ (t.linkUp = s.linkUp ∨ s.turns.head? = some (.link t.linkUp))

/-- 40_transaction.md R160: a step into FAILED writes no byte of RXBUF or TXBUF, and leaves RDATA 0x00. -/
def Obligations.FailureLeavesOutputs : Prop :=
  ∀ s t : State, step s = .next t → s.phase ≠ .failed → t.phase = .failed →
    t.rxbuf = s.rxbuf ∧ t.txbuf = s.txbuf ∧ respRdata t.resp = 0x00#8

/-- 10_state.md R27: CHUNKS_DONE is set to 0 by an acceptance or a reset, and goes up by one when a reply segment of the exact length is
received, whatever its status byte; no other step changes it. That the TRANSPORT is asked before the HOST when no turn is listed is
log 3. -/
def Obligations.ChunksDoneCountsReplies : Prop :=
  ∀ s t : State, step s = .next t →
    (resetTurn s ∨ s.phase = .idle ∧ t.phase ≠ .idle → t.chunksDone = 0#16) ∧
    (∀ r a, transportTurn s → s.phase = .awaitingReply → s.transport.onRecv s.sReg.toNat = some (.bytes r, a) → r.length = s.sReg.toNat →
      t.chunksDone = s.chunksDone + 1#16) ∧
    (t.chunksDone ≠ s.chunksDone →
      (resetTurn s ∨ s.phase = .idle ∧ t.phase ≠ .idle) ∨
      transportTurn s ∧ s.phase = .awaitingReply ∧
        ∃ r a, s.transport.onRecv s.sReg.toNat = some (.bytes r, a) ∧ r.length = s.sReg.toNat)

/-- What a step puts out of the FRAMER. 20_memory.md R72(b), 40_transaction.md R146: bytes go to the TRANSPORT only in FRAME_BUILT, and
are TXSEG[0..S) in index order. 60_exceptions.md R262, R263, R264: no step but a reset takes an event out of the history of the diagnostic
port or changes one; a step appends to it, in this order and layout, the records its entry to FRAME_BUILT or to FAILED emits, and every
other step appends none. That a reset empties the history is log 7. -/
def Obligations.OutputPortsOnlyAppend : Prop :=
  ∀ s t : State, step s = .next t →
    (t.wire ≠ s.wire →
      s.phase = .frameBuilt ∧ ∃ seg, s.txseg.readRange 0 s.sReg.toNat = some seg ∧ t.wire = s.wire ++ [seg]) ∧
    (¬ resetTurn s → ∃ new, t.events = s.events ++ new ∧ new.map DiagEvent.record = recordsEmitted s t)

/-! The HOST's ports. -/

/-- 20_memory.md R61: the three cases of HostWriteTx. -/
def Obligations.HostWritesTxbuf : Prop :=
  ∀ (s : State) (i : Half) (v : Byte) (rest : List HostOp) (ts : List Turn),
    s.turns = .host :: ts → s.host.program = .writeTx i v :: rest →
    (i.toNat < s.params.bufSize → s.phase = .idle ∨ s.phase = .validated ∨ s.phase = .failed →
      step s = .next { s with turns := ts, host := ⟨rest, s.host.answers⟩, txbuf := s.txbuf.write i.toNat v } ∧
      ∀ j, (s.txbuf.write i.toNat v).read j = if j = i.toNat then some v else s.txbuf.read j) ∧
    (i.toNat < s.params.bufSize → s.phase = .frameBuilt ∨ s.phase = .sent ∨ s.phase = .awaitingReply →
      step s = .next { s with turns := ts }) ∧
    (s.params.bufSize ≤ i.toNat → step s = .fault (.hostAccessError .txbuf))

/-- 20_memory.md R62: the cases of HostReadRx, in any STATE, with no side effect on the FRAMER. -/
def Obligations.HostReadsRxbuf : Prop :=
  ∀ (s : State) (i : Half) (rest : List HostOp) (ts : List Turn),
    s.turns = .host :: ts → s.host.program = .readRx i :: rest →
    (∀ v, i.toNat < s.params.bufSize → s.rxbuf.read i.toNat = some v →
      step s = .next { s with turns := ts, host := ⟨rest, s.host.answers ++ [.rxByte v]⟩ }) ∧
    (i.toNat < s.params.bufSize → s.rxbuf.read i.toNat = none → step s = .fault .hostNoValue) ∧
    (s.params.bufSize ≤ i.toNat → step s = .fault (.hostAccessError .rxbuf))

/-- 10_state.md R31, R20, R29: a read of STATUS, in any STATE, gives STATE's code, RESP_VALID and LINK_UP with the reserved bits 0, and has
no side effect; so does a read of RESP (10_state.md R32). -/
def Obligations.HostReadsStatusAndResp : Prop :=
  ∀ (s : State) (rest : List HostOp) (ts : List Turn), s.turns = .host :: ts →
    (s.host.program = .readStatus :: rest →
      ∃ w : Byte, step s = .next { s with turns := ts, host := ⟨rest, s.host.answers ++ [.status w]⟩ } ∧
        w.extractLsb' 5 3 = 0#3 ∧ (w.getLsbD 4 = true ↔ s.linkUp = true) ∧
        (w.getLsbD 3 = true ↔ s.phase = .validated ∨ s.phase = .failed) ∧
        (w.extractLsb' 0 3).toNat =
          match s.phase with
          | .idle => 0
          | .frameBuilt => 1
          | .sent => 2
          | .awaitingReply => 3
          | .validated => 4
          | .failed => 5) ∧
    (s.host.program = .readResp :: rest →
      step s = .next { s with turns := ts, host := ⟨rest, s.host.answers ++ [.resp s.resp]⟩ })

/-! Invariants. -/

/-- 20_memory.md R60: every step keeps every byte array in its one form, from every state that has it. -/
def Obligations.MemoriesStayCanonical : Prop :=
  ∀ s t : State, memoriesCanonical s → step s = .next t → memoriesCanonical t

/-- 10_state.md R28, 60_exceptions.md R240-R245: every step keeps RESP one of the words the layout and the codes allow (SUBCODE 0 exactly
when RESULT is OK), with RESULT = OK in VALIDATED and not in FAILED, copies of DIAG and CHUNKS_DONE in both, and RDATA not 0 only after a
READ. -/
def Obligations.RespStaysConsistent : Prop :=
  ∀ s t : State, respConsistent s → step s = .next t → respConsistent t

/-- 40_transaction.md R145, R151, R155, 42_burst.md R200, 20_memory.md R60: every step keeps the whole invariant: legal parameters,
canonical byte arrays inside their sizes, an IDLE without working state, a consistent RESP, and in a transaction the geometry of its
segments, the bytes of the segment in flight in TXSEG and the data received so far in STG. -/
def Obligations.StepKeepsInvariant : Prop := ∀ s t : State, inv s → step s = .next t → inv t

/-- 10_state.md R41, 00_scope.md R9: the state after reset meets the invariants. -/
def Obligations.ResetMeetsInvariant : Prop := inv State.reset

/-- 60_exceptions.md R260, 40_transaction.md R152: from a state that meets the invariant a step stops only while a BURST_WRITE segment is
built, some TXBUF byte of its payload having no value, for a HOST read of no value, or for a host access error; it never refuses. -/
def Obligations.StepStopsOnlyForMissingBytes : Prop :=
  ∀ s : State, inv s →
    (∀ r, step s ≠ .refused r) ∧
    (∀ r, step s = .fault r →
      (r = .framerNoValue .txbuf ∧
          (s.phase = .awaitingReply ∧ s.cur.op = .burstWrite ∧ (∃ j < s.cur.n.toNat, s.txbuf.read j = none) ∨
            s.phase = .idle ∧ ∃ d rest f, s.host.program = .issue d :: rest ∧ decode d = .ok (.burstWrite f) ∧
              ∃ j < f.n.toNat, s.txbuf.read j = none)) ∨
      (r = .hostNoValue ∧ ∃ i rest, s.host.program = .readRx i :: rest ∧ s.rxbuf.read i.toNat = none) ∨
      (r = .hostAccessError .txbuf ∧ ∃ i v rest, s.host.program = .writeTx i v :: rest ∧ s.params.bufSize ≤ i.toNat) ∨
      (r = .hostAccessError .rxbuf ∧ ∃ i rest, s.host.program = .readRx i :: rest ∧ s.params.bufSize ≤ i.toNat))

/-! What may not show. -/

/-- 41_single_register.md R183, 30_encoding.md R106: for every command, ADDR with bit 7 set and without it are accepted alike, but for
DIAG, its copies in response words, and EV_ADDR_MASKED. -/
def Obligations.AddressBit7ShowsOnlyInDiag : Prop :=
  ∀ (f : Fields) (s : State),
    mapNext hideDiag (exec (.write { f with addr := f.addr ^^^ 0x80#8 }) s) = mapNext hideDiag (exec (.write f) s) ∧
    mapNext hideDiag (exec (.read { f with addr := f.addr ^^^ 0x80#8 }) s) = mapNext hideDiag (exec (.read f) s) ∧
    mapNext hideDiag (exec (.burstWrite { f with addr := f.addr ^^^ 0x80#8 }) s) = mapNext hideDiag (exec (.burstWrite f) s) ∧
    mapNext hideDiag (exec (.burstRead { f with addr := f.addr ^^^ 0x80#8 }) s) = mapNext hideDiag (exec (.burstRead f) s)

/-- 41_single_register.md R183, 10_state.md R39: nothing the machine does later depends on DIAG, on the DIAG bit of RESP or on the events
emitted: two states alike but for those take steps to states alike but for those, or stop for the same reason. -/
def Obligations.DiagNeverInfluencesAStep : Prop :=
  ∀ s s' : State, hideDiag s = hideDiag s' → mapNext hideDiag (step s) = mapNext hideDiag (step s')

/-- 30_encoding.md R105: fields an operation does not use change nothing but CUR, no byte sent, no event, no response: two commands alike
but for those are accepted alike, and two states alike but for those fields of CUR take steps to states alike but for those, or stop for
the same reason. -/
def Obligations.UnusedFieldsAreIgnored : Prop :=
  ∀ (s : State) (f g : Fields),
    (sameUsedFields .write f g → mapNext hideUnused (exec (.write f) s) = mapNext hideUnused (exec (.write g) s)) ∧
    (sameUsedFields .read f g → mapNext hideUnused (exec (.read f) s) = mapNext hideUnused (exec (.read g) s)) ∧
    (sameUsedFields .burstWrite f g → mapNext hideUnused (exec (.burstWrite f) s) = mapNext hideUnused (exec (.burstWrite g) s)) ∧
    (sameUsedFields .burstRead f g → mapNext hideUnused (exec (.burstRead f) s) = mapNext hideUnused (exec (.burstRead g) s)) ∧
    (∀ s' : State, hideUnused s = hideUnused s' → mapNext hideUnused (step s) = mapNext hideUnused (step s'))

/-! Whole transactions. -/

/-- 41_single_register.md R180: a WRITE with the link up, whatever the TRANSPORT answers to its send and, if it comes to that, to its
receive: the segment sent, the response, and the end in VALIDATED or FAILED. The order of the agents is the model's, log 3. -/
def Obligations.WriteTransaction : Prop :=
  ∀ (s : State) (d : Word) (rest : List HostOp) (f : Fields) (a : SendAnswer) (b : RecvAnswer)
    (sends : List SendAnswer) (recvs : List RecvAnswer),
    s.params.legal → s.phase = .idle → s.linkUp = true → s.turns = [] → s.host.program = .issue d :: rest →
    decode d = .ok (.write f) → s.transport = .free (a :: sends) (b :: recvs) →
    ∃ t, Sys2Proof.core.run (if a = .count (writeFrame f).length then 4 else 2) s = .next t ∧
      t.resp = singleResponse (maskedBit f) (writeFrame f).length a b 0x00#8 ∧
      t.phase = (if respResult t.resp = 0#3 then .validated else .failed) ∧
      t.wire = s.wire ++ [writeFrame f] ∧ t.txbuf = s.txbuf ∧ t.rxbuf = s.rxbuf ∧ t.host = ⟨rest, s.host.answers⟩

/-- 41_single_register.md R181: the same for a READ, whose RDATA is the byte at reply offset T - 1. -/
def Obligations.ReadTransaction : Prop :=
  ∀ (s : State) (d : Word) (rest : List HostOp) (f : Fields) (a : SendAnswer) (b : RecvAnswer)
    (sends : List SendAnswer) (recvs : List RecvAnswer),
    s.params.legal → s.phase = .idle → s.linkUp = true → s.turns = [] → s.host.program = .issue d :: rest →
    decode d = .ok (.read f) → s.transport = .free (a :: sends) (b :: recvs) →
    ∃ t, Sys2Proof.core.run (if a = .count (readFrame f).length then 4 else 2) s = .next t ∧
      t.resp = singleResponse (maskedBit f) (readFrame f).length a b
        (match b with
          | .err => 0x00#8
          | .bytes r => r.getD ((readFrame f).length - 1) 0x00#8) ∧
      t.phase = (if respResult t.resp = 0#3 then .validated else .failed) ∧
      t.wire = s.wire ++ [readFrame f] ∧ t.txbuf = s.txbuf ∧ t.rxbuf = s.rxbuf ∧ t.host = ⟨rest, s.host.answers⟩

/-- 42_burst.md R200-R205, 60_exceptions.md R264, 70_reset_and_hazards.md R292: every command, of any number of segments, whose TRANSPORT
answers each send with the full count and each receive with a reply of the exact length and, where one is required, the success marker,
takes exactly nseg round trips and ends in VALIDATED with CHUNKS_DONE = nseg and nseg EV_FRAME_BUILT events; a BURST_READ leaves the reply
bytes at positions h, h + 1, ... in RXBUF[0..N), a READ the last one in RDATA. The order of the agents is the model's, log 3. -/
def Obligations.ExchangeCompletes : Prop :=
  ∀ (s : State) (i : Instr) (d : Word) (rest : List HostOp) (replies : List (List Byte)) (c t nseg : Nat),
    c = s.params.chunkMax → t = frameLen i.op i.fields.mode i.fields.n → nseg = segmentCount c t →
    s.params.legal → s.phase = .idle → s.linkUp = true → s.turns = [] → s.txbuf.wf →
    s.host.program = .issue d :: rest → decode d = .ok i →
    (i.op.isBurst = true → 1 ≤ i.fields.n.toNat ∧ i.fields.n.toNat ≤ s.params.bufSize) →
    (i.op = .burstWrite → ∀ j < i.fields.n.toNat, s.txbuf.read j ≠ none) →
    replies.length = nseg → (∀ k < nseg, (replies.getD k []).length = sizeOfSegment c t k) →
    (∀ k < nseg, statusRequired s.params.burstWriteStatus i.op (k + 1 = nseg) = true → (replies.getD k []).head? = some 0xFF#8) →
    s.transport = .free ((List.range nseg).map (fun k => .count (sizeOfSegment c t k))) (replies.map .bytes) →
    ∃ u, Sys2Proof.core.run (1 + 3 * nseg) s = .next u ∧ u.phase = .validated ∧
      u.resp = packResp .ok (maskedBit i.fields) 0#4 0#8 (if i.op = .read then replies.flatten.getD (t - 1) 0#8 else 0#8)
        (BitVec.ofNat 16 nseg) ∧
      u.events = s.events ++ (if i.fields.addr.getLsbD 7 then [.addrMasked i.fields.addr] else []) ++
        (List.range nseg).map (fun k => .frameBuilt (BitVec.ofNat 16 k) (BitVec.ofNat 16 (sizeOfSegment c t k))) ∧
      u.wire.length = s.wire.length + nseg ∧ u.transport = .free [] [] ∧ u.host = ⟨rest, s.host.answers⟩ ∧ u.txbuf = s.txbuf ∧
      (i.op = .burstRead →
        (∀ j < i.fields.n.toNat, u.rxbuf.read j = replies.flatten[headerLen i.fields.mode + j]?) ∧
        ∀ j, i.fields.n.toNat ≤ j → u.rxbuf.read j = s.rxbuf.read j) ∧
      (i.op ≠ .burstRead → u.rxbuf = s.rxbuf)

/-- 41_single_register.md R182: against the reference peer with no faults and the link up, a WRITE and then a READ of the same register
both end OK, and the READ gives the byte written. The order of the agents is the model's, log 3. -/
def Obligations.SingleRegisterRoundTrip : Prop :=
  ∀ (s : State) (p : Peer) (m : Mode) (mux addr data w : Byte) (n n' : Half),
    s.params.legal → s.phase = .idle → s.linkUp = true → s.turns = [] → s.transport = .peer p → p.faults = [] → p.pos = 0 →
    s.host.program =
      [.issue (encode (.write ⟨m, mux, addr, data, n⟩)), .takeResponse, .issue (encode (.read ⟨m, mux, addr, w, n'⟩)), .takeResponse] →
    ∃ t x y, Sys2Proof.core.run 10 s = .next t ∧ finished t ∧ t.host.answers = s.host.answers ++ [.response x, .response y] ∧
      respResult x = 0#3 ∧ respResult y = 0#3 ∧ respRdata y = data

/-- 42_burst.md R208: against the reference peer with no faults and the link up, a BURST_WRITE of TXBUF[0..N) and then a BURST_READ of N
bytes at the same address both end OK and leave those bytes in RXBUF[0..N), for every legal N and C. The order of the agents is the
model's, log 3. -/
def Obligations.BurstRoundTrip : Prop :=
  ∀ (s : State) (p : Peer) (m : Mode) (mux addr w w' : Byte) (n : Half) (pay : List Byte),
    s.params.legal → s.phase = .idle → s.linkUp = true → s.turns = [] → s.transport = .peer p → p.faults = [] → p.pos = 0 →
    1 ≤ n.toNat → n.toNat ≤ s.params.bufSize → s.txbuf.wf → s.txbuf.readRange 0 n.toNat = some pay →
    s.host.program =
      [.issue (encode (.burstWrite ⟨m, mux, addr, w, n⟩)), .takeResponse, .issue (encode (.burstRead ⟨m, mux, addr, w', n⟩)),
        .takeResponse] →
    ∃ t x y, Sys2Proof.core.run (2 * (2 + 3 * segmentCount s.params.chunkMax (headerLen m + n.toNat))) s = .next t ∧ finished t ∧
      t.host.answers = s.host.answers ++ [.response x, .response y] ∧ respResult x = 0#3 ∧ respResult y = 0#3 ∧
      ∀ j < n.toNat, t.rxbuf.read j = pay[j]?
end

