-- ==== Sys2Proof/Laws/Memory.lean ====
section
/-! SUPPORT. What the byte-array operations do: read after write, and that every operation keeps the canonical form. -/

namespace Sys2Proof.Machine

theorem Mem.read_append (m m' : Mem) (i : Nat) :
    Mem.read (m ++ m') i = (Mem.read m i).or (Mem.read m' i) := by
  induction m with
  | nil => simp [Mem.read]
  | cons c m ih => by_cases h : c.1 = i <;> simp [Mem.read, h, ih]

theorem Mem.read_filter_keep (m : Mem) (p : Host.Cell → Bool) (i : Nat) (h : ∀ v, p (i, v) = true) :
    Mem.read (m.filter p) i = Mem.read m i := by
  induction m with
  | nil => simp [Mem.read]
  | cons c m ih =>
    obtain ⟨j, v⟩ := c
    by_cases hj : j = i
    · subst hj
      simp [h, Mem.read]
    · by_cases hp : p (j, v) <;> simp [hp, Mem.read, hj, ih]

theorem Mem.read_filter_drop (m : Mem) (p : Host.Cell → Bool) (i : Nat) (h : ∀ v, p (i, v) = false) :
    Mem.read (m.filter p) i = none := by
  induction m with
  | nil => simp [Mem.read]
  | cons c m ih =>
    obtain ⟨j, v⟩ := c
    by_cases hj : j = i
    · subst hj
      simp [h, ih]
    · by_cases hp : p (j, v) <;> simp [hp, Mem.read, hj, ih]

theorem Mem.read_cells (bs : List Byte) (i j : Nat) :
    Mem.read (Mem.cells i bs) j = if i ≤ j then bs[j - i]? else none := by
  induction bs generalizing i with
  | nil => simp [Mem.cells, Mem.read]
  | cons b bs ih =>
    by_cases hij : i = j
    · subst hij
      simp [Mem.cells, Mem.read]
    · simp only [Mem.cells, Mem.read, hij, if_false, ih]
      by_cases h : i + 1 ≤ j
      · have h2 : j - i = (j - (i + 1)) + 1 := by omega
        simp [h, show i ≤ j by omega, h2]
      · simp [h, show ¬ i ≤ j by omega]

/-- Read after write: inside the written range the byte written, outside it the byte that was there. -/
theorem Mem.read_writeRange (m : Mem) (i j : Nat) (bs : List Byte) :
    Mem.read (m.writeRange i bs) j =
      if i ≤ j ∧ j < i + bs.length then bs[j - i]? else Mem.read m j := by
  unfold Mem.writeRange
  rw [Mem.read_append, Mem.read_append, Mem.read_cells]
  by_cases h1 : j < i
  · rw [Mem.read_filter_keep m _ j (by simpa using h1), Mem.read_filter_drop m _ j (by intro v; simp; omega)]
    simp [show ¬ i ≤ j by omega]
  · rw [Mem.read_filter_drop m _ j (by intro v; simp; omega)]
    by_cases h2 : j < i + bs.length
    · rw [Mem.read_filter_drop m _ j (by intro v; simp; omega)]
      simp [show i ≤ j by omega, h2]
    · rw [Mem.read_filter_keep m _ j (by intro v; simp; omega)]
      simp [show i ≤ j by omega, h2, List.getElem?_eq_none (show bs.length ≤ j - i by omega)]

theorem Mem.read_writeRange_outside (m : Mem) (i j : Nat) (bs : List Byte) (h : j < i ∨ i + bs.length ≤ j) :
    Mem.read (m.writeRange i bs) j = Mem.read m j := by
  rw [Mem.read_writeRange, if_neg (by omega)]

theorem Mem.read_write (m : Mem) (i j : Nat) (v : Byte) :
    Mem.read (m.write i v) j = if i = j then some v else Mem.read m j := by
  unfold Mem.write
  rw [Mem.read_writeRange]
  by_cases h : i = j
  · subst h
    simp
  · rw [if_neg (by simp; omega), if_neg h]

theorem Mem.mem_cells (bs : List Byte) (i : Nat) (c : Host.Cell) (h : c ∈ Mem.cells i bs) :
    i ≤ c.1 ∧ c.1 < i + bs.length := by
  induction bs generalizing i with
  | nil => simp [Mem.cells] at h
  | cons b bs ih =>
    simp only [Mem.cells, List.mem_cons] at h
    rcases h with rfl | h
    · simp
    · have := ih (i + 1) h
      simp only [List.length_cons]
      omega

theorem Mem.cells_wf (bs : List Byte) (i : Nat) : Mem.wf (Mem.cells i bs) := by
  induction bs generalizing i with
  | nil => simp [Mem.cells]
  | cons b bs ih =>
    refine List.pairwise_cons.mpr ⟨fun c hc => ?_, ih (i + 1)⟩
    have := Mem.mem_cells bs (i + 1) c hc
    simp only
    omega

/-- Every write keeps the canonical form. -/
theorem Mem.writeRange_wf (m : Mem) (i : Nat) (bs : List Byte) (h : m.wf) : (m.writeRange i bs).wf := by
  unfold Mem.writeRange
  refine List.pairwise_append.mpr ⟨List.pairwise_append.mpr ⟨h.filter _, Mem.cells_wf bs i, ?_⟩, h.filter _, ?_⟩
  · intro c hc d hd
    have := Mem.mem_cells bs i d hd
    have hlt : c.1 < i := by simpa using (List.mem_filter.mp hc).2
    omega
  · intro c hc d hd
    have hge : i + bs.length ≤ d.1 := by simpa using (List.mem_filter.mp hd).2
    rcases List.mem_append.mp hc with hc | hc
    · have hlt : c.1 < i := by simpa using (List.mem_filter.mp hc).2
      omega
    · have := Mem.mem_cells bs i c hc
      omega

theorem Mem.write_wf (m : Mem) (i : Nat) (v : Byte) (h : m.wf) : (m.write i v).wf := Mem.writeRange_wf m i [v] h

/-- A write inside the size keeps every index inside it. -/
theorem Mem.writeRange_bounded (m : Mem) (i size : Nat) (bs : List Byte) (h : m.bounded size) (hi : i + bs.length ≤ size) :
    (m.writeRange i bs).bounded size := by
  intro c hc
  unfold Mem.writeRange at hc
  rcases List.mem_append.mp hc with hc | hc
  · rcases List.mem_append.mp hc with hc | hc
    · exact h c (List.mem_filter.mp hc).1
    · have := Mem.mem_cells bs i c hc
      omega
  · exact h c (List.mem_filter.mp hc).1

theorem Mem.readRun_cells_append (bs : List Byte) (m : Mem) (i : Nat) :
    Mem.readRun (Mem.cells i bs ++ m) i bs.length = some bs := by
  induction bs generalizing i with
  | nil => simp [Mem.cells, Mem.readRun]
  | cons b bs ih => simp [Mem.cells, Mem.readRun, ih]

theorem Mem.length_of_readRun (n : Nat) (m : Mem) (i : Nat) (bs : List Byte) (h : Mem.readRun m i n = some bs) :
    bs.length = n := by
  induction n generalizing m i bs with
  | zero =>
    cases m <;> simp [Mem.readRun] at h <;> subst h <;> rfl
  | succ n ih =>
    cases m with
    | nil => simp [Mem.readRun] at h
    | cons c m =>
      simp only [Mem.readRun] at h
      split at h
      · obtain ⟨ds, hd, rfl⟩ := Option.map_eq_some_iff.mp h
        simp [ih m (i + 1) ds hd]
      · simp at h

/-- A range read gives as many bytes as it was asked for. -/
theorem Mem.length_of_readRange (m : Mem) (i n : Nat) (bs : List Byte) (h : m.readRange i n = some bs) : bs.length = n :=
  Mem.length_of_readRun n _ i bs h

theorem Mem.dropWhile_filter_lt (m m' : Mem) (i : Nat) :
    (m.filter (fun c => c.1 < i) ++ m').dropWhile (fun c => c.1 < i) = m'.dropWhile (fun c => c.1 < i) := by
  induction m with
  | nil => simp
  | cons c m ih => by_cases h : c.1 < i <;> simp [h, ih]

theorem Mem.dropWhile_cells (m : Mem) (i : Nat) (b : Byte) (bs : List Byte) :
    (Mem.cells i (b :: bs) ++ m).dropWhile (fun c => c.1 < i) = Mem.cells i (b :: bs) ++ m := by
  simp [Mem.cells]

/-- A range just written reads back, whatever the array held before. -/
theorem Mem.readRange_writeRange_self (m : Mem) (i : Nat) (bs : List Byte) :
    (m.writeRange i bs).readRange i bs.length = some bs := by
  cases bs with
  | nil => simp [Mem.readRange, Mem.readRun]
  | cons b bs =>
    unfold Mem.readRange Mem.writeRange
    rw [List.append_assoc, Mem.dropWhile_filter_lt, Mem.dropWhile_cells, Mem.readRun_cells_append]

theorem Mem.read_dropWhile_lt (m : Mem) (i j : Nat) (h : i ≤ j) :
    Mem.read (m.dropWhile (fun c => c.1 < i)) j = Mem.read m j := by
  induction m with
  | nil => simp
  | cons c m ih =>
    by_cases hc : c.1 < i
    · simp [hc, Mem.read, ih, show c.1 ≠ j by omega]
    · simp [hc]

theorem Mem.read_of_readRun (n : Nat) (m : Mem) (i : Nat) (bs : List Byte) (h : Mem.readRun m i n = some bs) (j : Nat)
    (hj : j < n) : Mem.read m (i + j) = bs[j]? := by
  induction n generalizing m i bs j with
  | zero => omega
  | succ n ih =>
    cases m with
    | nil => simp [Mem.readRun] at h
    | cons c m =>
      simp only [Mem.readRun] at h
      split at h
      next hc =>
        obtain ⟨ds, hd, rfl⟩ := Option.map_eq_some_iff.mp h
        cases j with
        | zero => simp [Mem.read, hc]
        | succ j =>
          have := ih m (i + 1) ds hd j (by omega)
          simpa [Mem.read, hc, show i ≠ i + (j + 1) by omega, Nat.add_comm, Nat.add_left_comm] using this
      next => simp at h

/-- A range read gives, byte for byte, what reading one byte gives. -/
theorem Mem.read_of_readRange (m : Mem) (i n : Nat) (bs : List Byte) (h : m.readRange i n = some bs) (j : Nat) (hj : j < n) :
    m.read (i + j) = bs[j]? := by
  rw [← Mem.read_dropWhile_lt m i (i + j) (by omega)]
  exact Mem.read_of_readRun n _ i bs h j hj

theorem Mem.read_none_of_lt (m : Mem) (i : Nat) (h : ∀ c ∈ m, i < c.1) : m.read i = none := by
  induction m with
  | nil => rfl
  | cons c m ih =>
    have := h c (by simp)
    simp [Mem.read, show c.1 ≠ i by omega, ih (fun d hd => h d (by simp [hd]))]

theorem Mem.readRun_of_read (n : Nat) (m : Mem) (i : Nat) (hm : m.wf) (hi : ∀ c ∈ m, i ≤ c.1)
    (h : ∀ j < n, m.read (i + j) ≠ none) : Mem.readRun m i n ≠ none := by
  induction n generalizing m i with
  | zero => cases m <;> simp [Mem.readRun]
  | succ n ih =>
    cases m with
    | nil => exact absurd rfl (h 0 (by omega))
    | cons c m =>
      have hrest := List.pairwise_cons.mp hm
      have hc : c.1 = i := by
        by_contra hne
        refine h 0 (by omega) (Mem.read_none_of_lt _ _ fun d hd => ?_)
        have hcge := hi c (by simp)
        rcases List.mem_cons.mp hd with rfl | hd
        · omega
        · have := hrest.1 d hd
          omega
      simp only [Mem.readRun, hc, if_true, ne_eq, Option.map_eq_none_iff]
      refine ih m (i + 1) hrest.2 (fun d hd => by have := hrest.1 d hd; omega) fun j hj => ?_
      have := h (j + 1) (by omega)
      simpa [Mem.read, show c.1 ≠ i + (j + 1) by omega, Nat.add_comm, Nat.add_left_comm] using this

/-- In a canonical array a range read answers exactly when every byte of the range has a value. -/
theorem Mem.readRange_of_read (m : Mem) (i n : Nat) (hm : m.wf) (h : ∀ j < n, m.read (i + j) ≠ none) :
    m.readRange i n ≠ none := by
  refine Mem.readRun_of_read n _ i (hm.sublist (List.dropWhile_sublist _)) ?_ fun j hj => ?_
  · have key : ∀ m : Mem, m.wf → ∀ c ∈ m.dropWhile (fun c => c.1 < i), i ≤ c.1 := by
      intro m hm
      induction m with
      | nil => simp
      | cons d m ih =>
        by_cases hd : d.1 < i
        · simpa [hd] using ih (List.pairwise_cons.mp hm).2
        · intro c hc
          have hc' : c ∈ d :: m := by simpa [hd] using hc
          rcases List.mem_cons.mp hc' with rfl | hc'
          · omega
          · have := (List.pairwise_cons.mp hm).1 c hc'
            omega
    exact key m hm
  · rw [Mem.read_dropWhile_lt m i (i + j) (by omega)]
    exact h j hj

end Sys2Proof.Machine
end

