-- ==== Sys2Proof/Laws/Peer.lean ====
section
/-! SUPPORT. What the reference peer answers to a receive, by its reply and its fault script (20_memory.md R77, R82). -/

namespace Sys2Proof.Machine

/-- RecvErr answers with Err, whatever was there. -/
@[simp] theorem spoil_recvErr (n : Nat) (a : Option RecvAnswer) : spoil n a .recvErr = some .err := by
  rcases a with _ | _ | _ <;> rfl

/-- No fault changes an Err. -/
@[simp] theorem spoil_err (n : Nat) (f : PeerFault) : spoil n (some .err) f = some .err := by
  cases f <;> rfl

@[simp] theorem foldl_spoil_err (n : Nat) (fs : List PeerFault) : fs.foldl (spoil n) (some .err) = some .err := by
  induction fs with
  | nil => rfl
  | cons f fs ih => simpa using ih

/-- A script with a RecvErr among its faults for a segment answers the receive with Err, whatever else it holds. -/
theorem foldl_spoil_of_recvErr (n : Nat) (fs : List PeerFault) (a : Option RecvAnswer) (h : .recvErr ∈ fs) :
    fs.foldl (spoil n) a = some .err := by
  induction fs generalizing a with
  | nil => cases h
  | cons f fs ih =>
    rcases List.mem_cons.mp h with rfl | h
    · simp
    · exact ih _ h

/-- A scripted RecvErr: the receive is answered with Err, with a reply ready or without. -/
theorem Peer.onRecv_of_recvErr (p : Peer) (n : Nat) (h : .recvErr ∈ faultsAt (p.segNo - 1) p.faults) :
    p.onRecv n = some (.err, { p with reply := none }) := by
  simp [Peer.onRecv, foldl_spoil_of_recvErr n _ _ h]

/-- A scripted ReplyLen, the only fault of its segment: m bytes, with a reply ready or without. -/
theorem Peer.onRecv_of_replyLen (p : Peer) (n m : Nat) (h : faultsAt (p.segNo - 1) p.faults = [.replyLen m]) (hm : m ≠ n) :
    ∃ r, p.onRecv n = some (.bytes r, { p with reply := none }) ∧ r.length = m := by
  cases hr : p.reply with
  | none => exact ⟨zeros m, by simp [Peer.onRecv, h, hr, spoil, hm], by simp [zeros]⟩
  | some r =>
    refine ⟨r.take m ++ zeros (m - r.length), by simp [Peer.onRecv, h, hr, spoil], ?_⟩
    simp only [zeros, List.length_append, List.length_take, List.length_replicate]
    omega

/-- With no fault for the segment the reply that is ready is the answer, and without one there is none. -/
theorem Peer.onRecv_of_no_fault (p : Peer) (n : Nat) (h : faultsAt (p.segNo - 1) p.faults = []) :
    p.onRecv n = p.reply.map (fun r => (.bytes r, { p with reply := none })) := by
  cases hr : p.reply <;> simp [Peer.onRecv, h, hr]

end Sys2Proof.Machine
end

