-- ==== Sys2Proof/Laws/PerInstr.lean ====
section
/-! SUPPORT. Statements made per instruction: one lemma per constructor of Instr. -/

namespace Sys2Proof.Laws.EncodingFits

/-- The descriptor of the command is well-formed (30_encoding.md R104): a legal OP and no reserved bit. -/
def Statement (i : Instr) : Prop := descriptorWellFormed (encode i) = true

theorem placeFields_rsvd0 (op : BitVec 3) (f : Fields) : (placeFields op f).extractLsb' 4 4 = 0#4 := by
  apply BitVec.eq_of_getLsbD_eq
  intro j hj
  simp only [placeFields, BitVec.getLsbD_extractLsb', BitVec.getLsbD_append]
  interval_cases j <;> simp

theorem placeFields_rsvd1 (op : BitVec 3) (f : Fields) : (placeFields op f).extractLsb' 48 16 = 0#16 := by
  apply BitVec.eq_of_getLsbD_eq
  intro j hj
  simp only [placeFields, BitVec.getLsbD_extractLsb', BitVec.getLsbD_append]
  interval_cases j <;> simp

theorem placeFields_op (op : BitVec 3) (f : Fields) : (placeFields op f).extractLsb' 0 3 = op := by
  apply BitVec.eq_of_getLsbD_eq
  intro j hj
  simp only [placeFields, BitVec.getLsbD_extractLsb', BitVec.getLsbD_append]
  interval_cases j <;> simp

theorem op_code_lt (op : Op) : op.code.setWidth 3 < 4#3 := by
  cases op <;> decide

theorem encode_wellFormed (i : Instr) : descriptorWellFormed (encode i) = true := by
  have h := op_code_lt i.op
  simp only [descriptorWellFormed, opLegal, rsvd0Zero, rsvd1Zero, encode, placeFields_op, placeFields_rsvd0,
    placeFields_rsvd1, h, decide_true, beq_self_eq_true, Bool.and_self]

theorem write (f : Fields) : Statement (.write f) := encode_wellFormed _

theorem read (f : Fields) : Statement (.read f) := encode_wellFormed _

theorem burstWrite (f : Fields) : Statement (.burstWrite f) := encode_wellFormed _

theorem burstRead (f : Fields) : Statement (.burstRead f) := encode_wellFormed _

end Sys2Proof.Laws.EncodingFits
end

