-- ==== Sys2Proof/Laws/Response.lean ====
section
/-! SUPPORT. What each field of a packed response word is, that a packed word is a legal one, and the records of the events. -/

namespace Sys2Proof.Machine

open Sys2Proof.Safety

section Fields

variable (r : Result) (diag : BitVec 1) (sub : BitVec 4) (nack rdata : Byte) (chunks : Half)

@[simp] theorem respResult_packResp : respResult (packResp r diag sub nack rdata chunks) = r.code := by
  apply BitVec.eq_of_getLsbD_eq
  intro j hj
  simp only [respResult, packResp, BitVec.getLsbD_extractLsb', BitVec.getLsbD_append]
  interval_cases j <;> simp

@[simp] theorem respDiag_packResp : respDiag (packResp r diag sub nack rdata chunks) = diag := by
  apply BitVec.eq_of_getLsbD_eq
  intro j hj
  simp only [respDiag, packResp, BitVec.getLsbD_extractLsb', BitVec.getLsbD_append]
  interval_cases j
  simp

@[simp] theorem respSubcode_packResp : respSubcode (packResp r diag sub nack rdata chunks) = sub := by
  apply BitVec.eq_of_getLsbD_eq
  intro j hj
  simp only [respSubcode, packResp, BitVec.getLsbD_extractLsb', BitVec.getLsbD_append]
  interval_cases j <;> simp

@[simp] theorem respNackCode_packResp : respNackCode (packResp r diag sub nack rdata chunks) = nack := by
  apply BitVec.eq_of_getLsbD_eq
  intro j hj
  simp only [respNackCode, packResp, BitVec.getLsbD_extractLsb', BitVec.getLsbD_append]
  interval_cases j <;> simp

@[simp] theorem respRdata_packResp : respRdata (packResp r diag sub nack rdata chunks) = rdata := by
  apply BitVec.eq_of_getLsbD_eq
  intro j hj
  simp only [respRdata, packResp, BitVec.getLsbD_extractLsb', BitVec.getLsbD_append]
  interval_cases j <;> simp

@[simp] theorem respChunksDone_packResp : respChunksDone (packResp r diag sub nack rdata chunks) = chunks := by
  apply BitVec.eq_of_getLsbD_eq
  intro j hj
  simp only [respChunksDone, packResp, BitVec.getLsbD_extractLsb', BitVec.getLsbD_append]
  interval_cases j <;> simp

@[simp] theorem packResp_reserved_low : (packResp r diag sub nack rdata chunks).extractLsb' 24 8 = 0#8 := by
  apply BitVec.eq_of_getLsbD_eq
  intro j hj
  simp only [packResp, BitVec.getLsbD_extractLsb', BitVec.getLsbD_append]
  interval_cases j <;> simp

@[simp] theorem packResp_reserved_high : (packResp r diag sub nack rdata chunks).extractLsb' 48 16 = 0#16 := by
  apply BitVec.eq_of_getLsbD_eq
  intro j hj
  simp only [packResp, BitVec.getLsbD_extractLsb', BitVec.getLsbD_append]
  interval_cases j <;> simp

/-- A packed word is legal when its SUBCODE is one of its RESULT's, and NACK_CODE and RDATA stand where they may. -/
theorem respWordLegal_packResp (hsub : sub.toNat ≤ lastSubcode r.code) (hok : sub = 0#4 → r = .ok)
    (hnack : r ≠ .remoteNack → nack = 0#8) (hrdata : r ≠ .ok → rdata = 0#8) :
    respWordLegal (packResp r diag sub nack rdata chunks) := by
  cases r <;> simp_all [respWordLegal, Result.code]

end Fields

/-! The records of the events (60_exceptions.md R263). -/

@[simp] theorem record_addrMasked (raw : Byte) : (DiagEvent.addrMasked raw).record = 0x01#8 ++ raw.setWidth 16 ++ 0x0000#16 := rfl

@[simp] theorem record_frameBuilt (k s : Half) : (DiagEvent.frameBuilt k s).record = 0x02#8 ++ k ++ s := rfl

@[simp] theorem record_ioError (sub : BitVec 4) (k : Half) : (DiagEvent.ioError sub k).record = 0x03#8 ++ sub.setWidth 16 ++ k := rfl

@[simp] theorem record_shortResponse (sub : BitVec 4) (k : Half) :
    (DiagEvent.shortResponse sub k).record = 0x04#8 ++ sub.setWidth 16 ++ k := rfl

@[simp] theorem record_remoteNack (code : Byte) (k : Half) :
    (DiagEvent.remoteNack code k).record = 0x05#8 ++ code.setWidth 16 ++ k := rfl

end Sys2Proof.Machine
end

