-- ==== Sys2Proof/Laws/State.lean ====
section
/-! SUPPORT. What each named update of the state writes, field by field, so that no proof unfolds a record update. -/

namespace Sys2Proof.Machine

@[simp] theorem raise_params (r : Result) (sub : BitVec 4) (v : Byte) (s : State) : (raise r sub v s).params = s.params := rfl
@[simp] theorem raise_phase (r : Result) (sub : BitVec 4) (v : Byte) (s : State) : (raise r sub v s).phase = .failed := rfl
@[simp] theorem raise_cur (r : Result) (sub : BitVec 4) (v : Byte) (s : State) : (raise r sub v s).cur = s.cur := rfl
@[simp] theorem raise_diag (r : Result) (sub : BitVec 4) (v : Byte) (s : State) : (raise r sub v s).diag = s.diag := rfl
@[simp] theorem raise_hdr (r : Result) (sub : BitVec 4) (v : Byte) (s : State) : (raise r sub v s).hdr = s.hdr := rfl
@[simp] theorem raise_hReg (r : Result) (sub : BitVec 4) (v : Byte) (s : State) : (raise r sub v s).hReg = s.hReg := rfl
@[simp] theorem raise_tReg (r : Result) (sub : BitVec 4) (v : Byte) (s : State) : (raise r sub v s).tReg = s.tReg := rfl
@[simp] theorem raise_kReg (r : Result) (sub : BitVec 4) (v : Byte) (s : State) : (raise r sub v s).kReg = s.kReg := rfl
@[simp] theorem raise_remReg (r : Result) (sub : BitVec 4) (v : Byte) (s : State) : (raise r sub v s).remReg = s.remReg := rfl
@[simp] theorem raise_sReg (r : Result) (sub : BitVec 4) (v : Byte) (s : State) : (raise r sub v s).sReg = s.sReg := rfl
@[simp] theorem raise_chunksDone (r : Result) (sub : BitVec 4) (v : Byte) (s : State) : (raise r sub v s).chunksDone = s.chunksDone := rfl
@[simp] theorem raise_resp (r : Result) (sub : BitVec 4) (v : Byte) (s : State) : (raise r sub v s).resp = packResp r s.diag sub (if r = .remoteNack then v else 0#8) 0#8 s.chunksDone := rfl
@[simp] theorem raise_txbuf (r : Result) (sub : BitVec 4) (v : Byte) (s : State) : (raise r sub v s).txbuf = s.txbuf := rfl
@[simp] theorem raise_rxbuf (r : Result) (sub : BitVec 4) (v : Byte) (s : State) : (raise r sub v s).rxbuf = s.rxbuf := rfl
@[simp] theorem raise_stg (r : Result) (sub : BitVec 4) (v : Byte) (s : State) : (raise r sub v s).stg = s.stg := rfl
@[simp] theorem raise_txseg (r : Result) (sub : BitVec 4) (v : Byte) (s : State) : (raise r sub v s).txseg = s.txseg := rfl
@[simp] theorem raise_rxseg (r : Result) (sub : BitVec 4) (v : Byte) (s : State) : (raise r sub v s).rxseg = s.rxseg := rfl
@[simp] theorem raise_events (r : Result) (sub : BitVec 4) (v : Byte) (s : State) : (raise r sub v s).events = s.events ++ failureEvents r sub v s.kReg := rfl
@[simp] theorem raise_linkUp (r : Result) (sub : BitVec 4) (v : Byte) (s : State) : (raise r sub v s).linkUp = s.linkUp := rfl
@[simp] theorem raise_host (r : Result) (sub : BitVec 4) (v : Byte) (s : State) : (raise r sub v s).host = s.host := rfl
@[simp] theorem raise_transport (r : Result) (sub : BitVec 4) (v : Byte) (s : State) : (raise r sub v s).transport = s.transport := rfl
@[simp] theorem raise_wire (r : Result) (sub : BitVec 4) (v : Byte) (s : State) : (raise r sub v s).wire = s.wire := rfl
@[simp] theorem raise_turns (r : Result) (sub : BitVec 4) (v : Byte) (s : State) : (raise r sub v s).turns = s.turns := rfl

@[simp] theorem finish_params (d : Byte) (s : State) : (finish d s).params = s.params := rfl
@[simp] theorem finish_phase (d : Byte) (s : State) : (finish d s).phase = .validated := rfl
@[simp] theorem finish_cur (d : Byte) (s : State) : (finish d s).cur = s.cur := rfl
@[simp] theorem finish_diag (d : Byte) (s : State) : (finish d s).diag = s.diag := rfl
@[simp] theorem finish_hdr (d : Byte) (s : State) : (finish d s).hdr = s.hdr := rfl
@[simp] theorem finish_hReg (d : Byte) (s : State) : (finish d s).hReg = s.hReg := rfl
@[simp] theorem finish_tReg (d : Byte) (s : State) : (finish d s).tReg = s.tReg := rfl
@[simp] theorem finish_kReg (d : Byte) (s : State) : (finish d s).kReg = s.kReg := rfl
@[simp] theorem finish_remReg (d : Byte) (s : State) : (finish d s).remReg = s.remReg := rfl
@[simp] theorem finish_sReg (d : Byte) (s : State) : (finish d s).sReg = s.sReg := rfl
@[simp] theorem finish_chunksDone (d : Byte) (s : State) : (finish d s).chunksDone = s.chunksDone := rfl
@[simp] theorem finish_resp (d : Byte) (s : State) : (finish d s).resp = packResp .ok s.diag 0#4 0#8 d s.chunksDone := rfl
@[simp] theorem finish_txbuf (d : Byte) (s : State) : (finish d s).txbuf = s.txbuf := rfl
@[simp] theorem finish_rxbuf (d : Byte) (s : State) : (finish d s).rxbuf = s.rxbuf := rfl
@[simp] theorem finish_stg (d : Byte) (s : State) : (finish d s).stg = s.stg := rfl
@[simp] theorem finish_txseg (d : Byte) (s : State) : (finish d s).txseg = s.txseg := rfl
@[simp] theorem finish_rxseg (d : Byte) (s : State) : (finish d s).rxseg = s.rxseg := rfl
@[simp] theorem finish_events (d : Byte) (s : State) : (finish d s).events = s.events := rfl
@[simp] theorem finish_linkUp (d : Byte) (s : State) : (finish d s).linkUp = s.linkUp := rfl
@[simp] theorem finish_host (d : Byte) (s : State) : (finish d s).host = s.host := rfl
@[simp] theorem finish_transport (d : Byte) (s : State) : (finish d s).transport = s.transport := rfl
@[simp] theorem finish_wire (d : Byte) (s : State) : (finish d s).wire = s.wire := rfl
@[simp] theorem finish_turns (d : Byte) (s : State) : (finish d s).turns = s.turns := rfl

@[simp] theorem enterIdle_params (s : State) : (enterIdle s).params = s.params := rfl
@[simp] theorem enterIdle_phase (s : State) : (enterIdle s).phase = .idle := rfl
@[simp] theorem enterIdle_cur (s : State) : (enterIdle s).cur = s.cur := rfl
@[simp] theorem enterIdle_diag (s : State) : (enterIdle s).diag = s.diag := rfl
@[simp] theorem enterIdle_hdr (s : State) : (enterIdle s).hdr = Hdr.zero := rfl
@[simp] theorem enterIdle_hReg (s : State) : (enterIdle s).hReg = 0#3 := rfl
@[simp] theorem enterIdle_tReg (s : State) : (enterIdle s).tReg = 0#16 := rfl
@[simp] theorem enterIdle_kReg (s : State) : (enterIdle s).kReg = 0#16 := rfl
@[simp] theorem enterIdle_remReg (s : State) : (enterIdle s).remReg = 0#16 := rfl
@[simp] theorem enterIdle_sReg (s : State) : (enterIdle s).sReg = 0#16 := rfl
@[simp] theorem enterIdle_chunksDone (s : State) : (enterIdle s).chunksDone = s.chunksDone := rfl
@[simp] theorem enterIdle_resp (s : State) : (enterIdle s).resp = s.resp := rfl
@[simp] theorem enterIdle_txbuf (s : State) : (enterIdle s).txbuf = s.txbuf := rfl
@[simp] theorem enterIdle_rxbuf (s : State) : (enterIdle s).rxbuf = s.rxbuf := rfl
@[simp] theorem enterIdle_stg (s : State) : (enterIdle s).stg = [] := rfl
@[simp] theorem enterIdle_txseg (s : State) : (enterIdle s).txseg = [] := rfl
@[simp] theorem enterIdle_rxseg (s : State) : (enterIdle s).rxseg = [] := rfl
@[simp] theorem enterIdle_events (s : State) : (enterIdle s).events = s.events := rfl
@[simp] theorem enterIdle_linkUp (s : State) : (enterIdle s).linkUp = s.linkUp := rfl
@[simp] theorem enterIdle_host (s : State) : (enterIdle s).host = s.host := rfl
@[simp] theorem enterIdle_transport (s : State) : (enterIdle s).transport = s.transport := rfl
@[simp] theorem enterIdle_wire (s : State) : (enterIdle s).wire = s.wire := rfl
@[simp] theorem enterIdle_turns (s : State) : (enterIdle s).turns = s.turns := rfl

@[simp] theorem answerHost_params (a : HostAnswer) (s : State) : (answerHost a s).params = s.params := rfl
@[simp] theorem answerHost_phase (a : HostAnswer) (s : State) : (answerHost a s).phase = s.phase := rfl
@[simp] theorem answerHost_cur (a : HostAnswer) (s : State) : (answerHost a s).cur = s.cur := rfl
@[simp] theorem answerHost_diag (a : HostAnswer) (s : State) : (answerHost a s).diag = s.diag := rfl
@[simp] theorem answerHost_hdr (a : HostAnswer) (s : State) : (answerHost a s).hdr = s.hdr := rfl
@[simp] theorem answerHost_hReg (a : HostAnswer) (s : State) : (answerHost a s).hReg = s.hReg := rfl
@[simp] theorem answerHost_tReg (a : HostAnswer) (s : State) : (answerHost a s).tReg = s.tReg := rfl
@[simp] theorem answerHost_kReg (a : HostAnswer) (s : State) : (answerHost a s).kReg = s.kReg := rfl
@[simp] theorem answerHost_remReg (a : HostAnswer) (s : State) : (answerHost a s).remReg = s.remReg := rfl
@[simp] theorem answerHost_sReg (a : HostAnswer) (s : State) : (answerHost a s).sReg = s.sReg := rfl
@[simp] theorem answerHost_chunksDone (a : HostAnswer) (s : State) : (answerHost a s).chunksDone = s.chunksDone := rfl
@[simp] theorem answerHost_resp (a : HostAnswer) (s : State) : (answerHost a s).resp = s.resp := rfl
@[simp] theorem answerHost_txbuf (a : HostAnswer) (s : State) : (answerHost a s).txbuf = s.txbuf := rfl
@[simp] theorem answerHost_rxbuf (a : HostAnswer) (s : State) : (answerHost a s).rxbuf = s.rxbuf := rfl
@[simp] theorem answerHost_stg (a : HostAnswer) (s : State) : (answerHost a s).stg = s.stg := rfl
@[simp] theorem answerHost_txseg (a : HostAnswer) (s : State) : (answerHost a s).txseg = s.txseg := rfl
@[simp] theorem answerHost_rxseg (a : HostAnswer) (s : State) : (answerHost a s).rxseg = s.rxseg := rfl
@[simp] theorem answerHost_events (a : HostAnswer) (s : State) : (answerHost a s).events = s.events := rfl
@[simp] theorem answerHost_linkUp (a : HostAnswer) (s : State) : (answerHost a s).linkUp = s.linkUp := rfl
@[simp] theorem answerHost_host (a : HostAnswer) (s : State) : (answerHost a s).host = ⟨s.host.program, s.host.answers ++ [a]⟩ := rfl
@[simp] theorem answerHost_transport (a : HostAnswer) (s : State) : (answerHost a s).transport = s.transport := rfl
@[simp] theorem answerHost_wire (a : HostAnswer) (s : State) : (answerHost a s).wire = s.wire := rfl
@[simp] theorem answerHost_turns (a : HostAnswer) (s : State) : (answerHost a s).turns = s.turns := rfl

@[simp] theorem applyReset_params (s : State) : (applyReset s).params = s.params := rfl
@[simp] theorem applyReset_phase (s : State) : (applyReset s).phase = .idle := rfl
@[simp] theorem applyReset_cur (s : State) : (applyReset s).cur = Cur.zero := rfl
@[simp] theorem applyReset_diag (s : State) : (applyReset s).diag = 0#1 := rfl
@[simp] theorem applyReset_hdr (s : State) : (applyReset s).hdr = Hdr.zero := rfl
@[simp] theorem applyReset_hReg (s : State) : (applyReset s).hReg = 0#3 := rfl
@[simp] theorem applyReset_tReg (s : State) : (applyReset s).tReg = 0#16 := rfl
@[simp] theorem applyReset_kReg (s : State) : (applyReset s).kReg = 0#16 := rfl
@[simp] theorem applyReset_remReg (s : State) : (applyReset s).remReg = 0#16 := rfl
@[simp] theorem applyReset_sReg (s : State) : (applyReset s).sReg = 0#16 := rfl
@[simp] theorem applyReset_chunksDone (s : State) : (applyReset s).chunksDone = 0#16 := rfl
@[simp] theorem applyReset_resp (s : State) : (applyReset s).resp = 0#64 := rfl
@[simp] theorem applyReset_txbuf (s : State) : (applyReset s).txbuf = [] := rfl
@[simp] theorem applyReset_rxbuf (s : State) : (applyReset s).rxbuf = [] := rfl
@[simp] theorem applyReset_stg (s : State) : (applyReset s).stg = [] := rfl
@[simp] theorem applyReset_txseg (s : State) : (applyReset s).txseg = [] := rfl
@[simp] theorem applyReset_rxseg (s : State) : (applyReset s).rxseg = [] := rfl
@[simp] theorem applyReset_events (s : State) : (applyReset s).events = [] := rfl
@[simp] theorem applyReset_linkUp (s : State) : (applyReset s).linkUp = s.linkUp := rfl
@[simp] theorem applyReset_host (s : State) : (applyReset s).host = s.host := rfl
@[simp] theorem applyReset_transport (s : State) : (applyReset s).transport = s.transport.abandon := rfl
@[simp] theorem applyReset_wire (s : State) : (applyReset s).wire = s.wire := rfl
@[simp] theorem applyReset_turns (s : State) : (applyReset s).turns = s.turns := rfl

@[simp] theorem latch_params (op : Op) (f : Fields) (s : State) : (latch op f s).params = s.params := rfl
@[simp] theorem latch_phase (op : Op) (f : Fields) (s : State) : (latch op f s).phase = s.phase := rfl
@[simp] theorem latch_cur (op : Op) (f : Fields) (s : State) : (latch op f s).cur = latchCur op f := rfl
@[simp] theorem latch_diag (op : Op) (f : Fields) (s : State) : (latch op f s).diag = addrBit7 f := rfl
@[simp] theorem latch_hdr (op : Op) (f : Fields) (s : State) : (latch op f s).hdr = header (latchCur op f) (BitVec.ofNat 16 (frameLen op f.mode f.n)) s.hdr := rfl
@[simp] theorem latch_hReg (op : Op) (f : Fields) (s : State) : (latch op f s).hReg = BitVec.ofNat 3 (headerLen f.mode) := rfl
@[simp] theorem latch_tReg (op : Op) (f : Fields) (s : State) : (latch op f s).tReg = BitVec.ofNat 16 (frameLen op f.mode f.n) := rfl
@[simp] theorem latch_kReg (op : Op) (f : Fields) (s : State) : (latch op f s).kReg = 0#16 := rfl
@[simp] theorem latch_remReg (op : Op) (f : Fields) (s : State) : (latch op f s).remReg = BitVec.ofNat 16 (frameLen op f.mode f.n) := rfl
@[simp] theorem latch_sReg (op : Op) (f : Fields) (s : State) : (latch op f s).sReg = s.sReg := rfl
@[simp] theorem latch_chunksDone (op : Op) (f : Fields) (s : State) : (latch op f s).chunksDone = s.chunksDone := rfl
@[simp] theorem latch_resp (op : Op) (f : Fields) (s : State) : (latch op f s).resp = s.resp := rfl
@[simp] theorem latch_txbuf (op : Op) (f : Fields) (s : State) : (latch op f s).txbuf = s.txbuf := rfl
@[simp] theorem latch_rxbuf (op : Op) (f : Fields) (s : State) : (latch op f s).rxbuf = s.rxbuf := rfl
@[simp] theorem latch_stg (op : Op) (f : Fields) (s : State) : (latch op f s).stg = s.stg := rfl
@[simp] theorem latch_txseg (op : Op) (f : Fields) (s : State) : (latch op f s).txseg = s.txseg := rfl
@[simp] theorem latch_rxseg (op : Op) (f : Fields) (s : State) : (latch op f s).rxseg = s.rxseg := rfl
@[simp] theorem latch_events (op : Op) (f : Fields) (s : State) : (latch op f s).events = s.events ++ (if addrBit7 f = 1#1 then [.addrMasked f.addr] else []) := rfl
@[simp] theorem latch_linkUp (op : Op) (f : Fields) (s : State) : (latch op f s).linkUp = s.linkUp := rfl
@[simp] theorem latch_host (op : Op) (f : Fields) (s : State) : (latch op f s).host = s.host := rfl
@[simp] theorem latch_transport (op : Op) (f : Fields) (s : State) : (latch op f s).transport = s.transport := rfl
@[simp] theorem latch_wire (op : Op) (f : Fields) (s : State) : (latch op f s).wire = s.wire := rfl
@[simp] theorem latch_turns (op : Op) (f : Fields) (s : State) : (latch op f s).turns = s.turns := rfl

@[simp] theorem segmentBuilt_params (n : Nat) (bs : List Byte) (s : State) : (segmentBuilt n bs s).params = s.params := rfl
@[simp] theorem segmentBuilt_phase (n : Nat) (bs : List Byte) (s : State) : (segmentBuilt n bs s).phase = .frameBuilt := rfl
@[simp] theorem segmentBuilt_cur (n : Nat) (bs : List Byte) (s : State) : (segmentBuilt n bs s).cur = s.cur := rfl
@[simp] theorem segmentBuilt_diag (n : Nat) (bs : List Byte) (s : State) : (segmentBuilt n bs s).diag = s.diag := rfl
@[simp] theorem segmentBuilt_hdr (n : Nat) (bs : List Byte) (s : State) : (segmentBuilt n bs s).hdr = s.hdr := rfl
@[simp] theorem segmentBuilt_hReg (n : Nat) (bs : List Byte) (s : State) : (segmentBuilt n bs s).hReg = s.hReg := rfl
@[simp] theorem segmentBuilt_tReg (n : Nat) (bs : List Byte) (s : State) : (segmentBuilt n bs s).tReg = s.tReg := rfl
@[simp] theorem segmentBuilt_kReg (n : Nat) (bs : List Byte) (s : State) : (segmentBuilt n bs s).kReg = s.kReg := rfl
@[simp] theorem segmentBuilt_remReg (n : Nat) (bs : List Byte) (s : State) : (segmentBuilt n bs s).remReg = s.remReg := rfl
@[simp] theorem segmentBuilt_sReg (n : Nat) (bs : List Byte) (s : State) : (segmentBuilt n bs s).sReg = BitVec.ofNat 16 n := rfl
@[simp] theorem segmentBuilt_chunksDone (n : Nat) (bs : List Byte) (s : State) : (segmentBuilt n bs s).chunksDone = s.chunksDone := rfl
@[simp] theorem segmentBuilt_resp (n : Nat) (bs : List Byte) (s : State) : (segmentBuilt n bs s).resp = s.resp := rfl
@[simp] theorem segmentBuilt_txbuf (n : Nat) (bs : List Byte) (s : State) : (segmentBuilt n bs s).txbuf = s.txbuf := rfl
@[simp] theorem segmentBuilt_rxbuf (n : Nat) (bs : List Byte) (s : State) : (segmentBuilt n bs s).rxbuf = s.rxbuf := rfl
@[simp] theorem segmentBuilt_stg (n : Nat) (bs : List Byte) (s : State) : (segmentBuilt n bs s).stg = s.stg := rfl
@[simp] theorem segmentBuilt_txseg (n : Nat) (bs : List Byte) (s : State) : (segmentBuilt n bs s).txseg = s.txseg.writeRange 0 bs := rfl
@[simp] theorem segmentBuilt_rxseg (n : Nat) (bs : List Byte) (s : State) : (segmentBuilt n bs s).rxseg = s.rxseg := rfl
@[simp] theorem segmentBuilt_events (n : Nat) (bs : List Byte) (s : State) : (segmentBuilt n bs s).events = s.events ++ [.frameBuilt s.kReg (BitVec.ofNat 16 n)] := rfl
@[simp] theorem segmentBuilt_linkUp (n : Nat) (bs : List Byte) (s : State) : (segmentBuilt n bs s).linkUp = s.linkUp := rfl
@[simp] theorem segmentBuilt_host (n : Nat) (bs : List Byte) (s : State) : (segmentBuilt n bs s).host = s.host := rfl
@[simp] theorem segmentBuilt_transport (n : Nat) (bs : List Byte) (s : State) : (segmentBuilt n bs s).transport = s.transport := rfl
@[simp] theorem segmentBuilt_wire (n : Nat) (bs : List Byte) (s : State) : (segmentBuilt n bs s).wire = s.wire := rfl
@[simp] theorem segmentBuilt_turns (n : Nat) (bs : List Byte) (s : State) : (segmentBuilt n bs s).turns = s.turns := rfl

@[simp] theorem clearProgress_params (s : State) : (clearProgress s).params = s.params := rfl
@[simp] theorem clearProgress_phase (s : State) : (clearProgress s).phase = s.phase := rfl
@[simp] theorem clearProgress_cur (s : State) : (clearProgress s).cur = s.cur := rfl
@[simp] theorem clearProgress_diag (s : State) : (clearProgress s).diag = 0#1 := rfl
@[simp] theorem clearProgress_hdr (s : State) : (clearProgress s).hdr = s.hdr := rfl
@[simp] theorem clearProgress_hReg (s : State) : (clearProgress s).hReg = s.hReg := rfl
@[simp] theorem clearProgress_tReg (s : State) : (clearProgress s).tReg = s.tReg := rfl
@[simp] theorem clearProgress_kReg (s : State) : (clearProgress s).kReg = s.kReg := rfl
@[simp] theorem clearProgress_remReg (s : State) : (clearProgress s).remReg = s.remReg := rfl
@[simp] theorem clearProgress_sReg (s : State) : (clearProgress s).sReg = s.sReg := rfl
@[simp] theorem clearProgress_chunksDone (s : State) : (clearProgress s).chunksDone = 0#16 := rfl
@[simp] theorem clearProgress_resp (s : State) : (clearProgress s).resp = s.resp := rfl
@[simp] theorem clearProgress_txbuf (s : State) : (clearProgress s).txbuf = s.txbuf := rfl
@[simp] theorem clearProgress_rxbuf (s : State) : (clearProgress s).rxbuf = s.rxbuf := rfl
@[simp] theorem clearProgress_stg (s : State) : (clearProgress s).stg = s.stg := rfl
@[simp] theorem clearProgress_txseg (s : State) : (clearProgress s).txseg = s.txseg := rfl
@[simp] theorem clearProgress_rxseg (s : State) : (clearProgress s).rxseg = s.rxseg := rfl
@[simp] theorem clearProgress_events (s : State) : (clearProgress s).events = s.events := rfl
@[simp] theorem clearProgress_linkUp (s : State) : (clearProgress s).linkUp = s.linkUp := rfl
@[simp] theorem clearProgress_host (s : State) : (clearProgress s).host = s.host := rfl
@[simp] theorem clearProgress_transport (s : State) : (clearProgress s).transport = s.transport := rfl
@[simp] theorem clearProgress_wire (s : State) : (clearProgress s).wire = s.wire := rfl
@[simp] theorem clearProgress_turns (s : State) : (clearProgress s).turns = s.turns := rfl

@[simp] theorem issueReceive_params (s : State) : (issueReceive s).params = s.params := rfl
@[simp] theorem issueReceive_phase (s : State) : (issueReceive s).phase = .awaitingReply := rfl
@[simp] theorem issueReceive_cur (s : State) : (issueReceive s).cur = s.cur := rfl
@[simp] theorem issueReceive_diag (s : State) : (issueReceive s).diag = s.diag := rfl
@[simp] theorem issueReceive_hdr (s : State) : (issueReceive s).hdr = s.hdr := rfl
@[simp] theorem issueReceive_hReg (s : State) : (issueReceive s).hReg = s.hReg := rfl
@[simp] theorem issueReceive_tReg (s : State) : (issueReceive s).tReg = s.tReg := rfl
@[simp] theorem issueReceive_kReg (s : State) : (issueReceive s).kReg = s.kReg := rfl
@[simp] theorem issueReceive_remReg (s : State) : (issueReceive s).remReg = s.remReg := rfl
@[simp] theorem issueReceive_sReg (s : State) : (issueReceive s).sReg = s.sReg := rfl
@[simp] theorem issueReceive_chunksDone (s : State) : (issueReceive s).chunksDone = s.chunksDone := rfl
@[simp] theorem issueReceive_resp (s : State) : (issueReceive s).resp = s.resp := rfl
@[simp] theorem issueReceive_txbuf (s : State) : (issueReceive s).txbuf = s.txbuf := rfl
@[simp] theorem issueReceive_rxbuf (s : State) : (issueReceive s).rxbuf = s.rxbuf := rfl
@[simp] theorem issueReceive_stg (s : State) : (issueReceive s).stg = s.stg := rfl
@[simp] theorem issueReceive_txseg (s : State) : (issueReceive s).txseg = s.txseg := rfl
@[simp] theorem issueReceive_rxseg (s : State) : (issueReceive s).rxseg = s.rxseg := rfl
@[simp] theorem issueReceive_events (s : State) : (issueReceive s).events = s.events := rfl
@[simp] theorem issueReceive_linkUp (s : State) : (issueReceive s).linkUp = s.linkUp := rfl
@[simp] theorem issueReceive_host (s : State) : (issueReceive s).host = s.host := rfl
@[simp] theorem issueReceive_transport (s : State) : (issueReceive s).transport = s.transport := rfl
@[simp] theorem issueReceive_wire (s : State) : (issueReceive s).wire = s.wire := rfl
@[simp] theorem issueReceive_turns (s : State) : (issueReceive s).turns = s.turns := rfl

@[simp] theorem stageReply_params (r : List Byte) (s : State) : (stageReply r s).params = s.params := rfl
@[simp] theorem stageReply_phase (r : List Byte) (s : State) : (stageReply r s).phase = s.phase := rfl
@[simp] theorem stageReply_cur (r : List Byte) (s : State) : (stageReply r s).cur = s.cur := rfl
@[simp] theorem stageReply_diag (r : List Byte) (s : State) : (stageReply r s).diag = s.diag := rfl
@[simp] theorem stageReply_hdr (r : List Byte) (s : State) : (stageReply r s).hdr = s.hdr := rfl
@[simp] theorem stageReply_hReg (r : List Byte) (s : State) : (stageReply r s).hReg = s.hReg := rfl
@[simp] theorem stageReply_tReg (r : List Byte) (s : State) : (stageReply r s).tReg = s.tReg := rfl
@[simp] theorem stageReply_kReg (r : List Byte) (s : State) : (stageReply r s).kReg = s.kReg := rfl
@[simp] theorem stageReply_remReg (r : List Byte) (s : State) : (stageReply r s).remReg = s.remReg := rfl
@[simp] theorem stageReply_sReg (r : List Byte) (s : State) : (stageReply r s).sReg = s.sReg := rfl
@[simp] theorem stageReply_chunksDone (r : List Byte) (s : State) : (stageReply r s).chunksDone = s.chunksDone := rfl
@[simp] theorem stageReply_resp (r : List Byte) (s : State) : (stageReply r s).resp = s.resp := rfl
@[simp] theorem stageReply_txbuf (r : List Byte) (s : State) : (stageReply r s).txbuf = s.txbuf := rfl
@[simp] theorem stageReply_rxbuf (r : List Byte) (s : State) : (stageReply r s).rxbuf = s.rxbuf := rfl
@[simp] theorem stageReply_stg (r : List Byte) (s : State) : (stageReply r s).stg = s.stg.writeRange (segmentStart s - s.hReg.toNat) (r.drop (s.hReg.toNat - segmentStart s)) := rfl
@[simp] theorem stageReply_txseg (r : List Byte) (s : State) : (stageReply r s).txseg = s.txseg := rfl
@[simp] theorem stageReply_rxseg (r : List Byte) (s : State) : (stageReply r s).rxseg = s.rxseg := rfl
@[simp] theorem stageReply_events (r : List Byte) (s : State) : (stageReply r s).events = s.events := rfl
@[simp] theorem stageReply_linkUp (r : List Byte) (s : State) : (stageReply r s).linkUp = s.linkUp := rfl
@[simp] theorem stageReply_host (r : List Byte) (s : State) : (stageReply r s).host = s.host := rfl
@[simp] theorem stageReply_transport (r : List Byte) (s : State) : (stageReply r s).transport = s.transport := rfl
@[simp] theorem stageReply_wire (r : List Byte) (s : State) : (stageReply r s).wire = s.wire := rfl
@[simp] theorem stageReply_turns (r : List Byte) (s : State) : (stageReply r s).turns = s.turns := rfl

@[simp] theorem advance_params (s : State) : (advance s).params = s.params := rfl
@[simp] theorem advance_phase (s : State) : (advance s).phase = s.phase := rfl
@[simp] theorem advance_cur (s : State) : (advance s).cur = s.cur := rfl
@[simp] theorem advance_diag (s : State) : (advance s).diag = s.diag := rfl
@[simp] theorem advance_hdr (s : State) : (advance s).hdr = s.hdr := rfl
@[simp] theorem advance_hReg (s : State) : (advance s).hReg = s.hReg := rfl
@[simp] theorem advance_tReg (s : State) : (advance s).tReg = s.tReg := rfl
@[simp] theorem advance_kReg (s : State) : (advance s).kReg = s.kReg + 1#16 := rfl
@[simp] theorem advance_remReg (s : State) : (advance s).remReg = s.remReg - s.sReg := rfl
@[simp] theorem advance_sReg (s : State) : (advance s).sReg = s.sReg := rfl
@[simp] theorem advance_chunksDone (s : State) : (advance s).chunksDone = s.chunksDone := rfl
@[simp] theorem advance_resp (s : State) : (advance s).resp = s.resp := rfl
@[simp] theorem advance_txbuf (s : State) : (advance s).txbuf = s.txbuf := rfl
@[simp] theorem advance_rxbuf (s : State) : (advance s).rxbuf = s.rxbuf := rfl
@[simp] theorem advance_stg (s : State) : (advance s).stg = s.stg := rfl
@[simp] theorem advance_txseg (s : State) : (advance s).txseg = s.txseg := rfl
@[simp] theorem advance_rxseg (s : State) : (advance s).rxseg = s.rxseg := rfl
@[simp] theorem advance_events (s : State) : (advance s).events = s.events := rfl
@[simp] theorem advance_linkUp (s : State) : (advance s).linkUp = s.linkUp := rfl
@[simp] theorem advance_host (s : State) : (advance s).host = s.host := rfl
@[simp] theorem advance_transport (s : State) : (advance s).transport = s.transport := rfl
@[simp] theorem advance_wire (s : State) : (advance s).wire = s.wire := rfl
@[simp] theorem advance_turns (s : State) : (advance s).turns = s.turns := rfl

@[simp] theorem replyReceived_params (r : List Byte) (s : State) : (replyReceived r s).params = s.params := rfl
@[simp] theorem replyReceived_phase (r : List Byte) (s : State) : (replyReceived r s).phase = s.phase := rfl
@[simp] theorem replyReceived_cur (r : List Byte) (s : State) : (replyReceived r s).cur = s.cur := rfl
@[simp] theorem replyReceived_diag (r : List Byte) (s : State) : (replyReceived r s).diag = s.diag := rfl
@[simp] theorem replyReceived_hdr (r : List Byte) (s : State) : (replyReceived r s).hdr = s.hdr := rfl
@[simp] theorem replyReceived_hReg (r : List Byte) (s : State) : (replyReceived r s).hReg = s.hReg := rfl
@[simp] theorem replyReceived_tReg (r : List Byte) (s : State) : (replyReceived r s).tReg = s.tReg := rfl
@[simp] theorem replyReceived_kReg (r : List Byte) (s : State) : (replyReceived r s).kReg = s.kReg := rfl
@[simp] theorem replyReceived_remReg (r : List Byte) (s : State) : (replyReceived r s).remReg = s.remReg := rfl
@[simp] theorem replyReceived_sReg (r : List Byte) (s : State) : (replyReceived r s).sReg = s.sReg := rfl
@[simp] theorem replyReceived_chunksDone (r : List Byte) (s : State) : (replyReceived r s).chunksDone = s.chunksDone + 1#16 := rfl
@[simp] theorem replyReceived_resp (r : List Byte) (s : State) : (replyReceived r s).resp = s.resp := rfl
@[simp] theorem replyReceived_txbuf (r : List Byte) (s : State) : (replyReceived r s).txbuf = s.txbuf := rfl
@[simp] theorem replyReceived_rxbuf (r : List Byte) (s : State) : (replyReceived r s).rxbuf = s.rxbuf := rfl
@[simp] theorem replyReceived_stg (r : List Byte) (s : State) : (replyReceived r s).stg = s.stg := rfl
@[simp] theorem replyReceived_txseg (r : List Byte) (s : State) : (replyReceived r s).txseg = s.txseg := rfl
@[simp] theorem replyReceived_rxseg (r : List Byte) (s : State) : (replyReceived r s).rxseg = s.rxseg.writeRange 0 r := rfl
@[simp] theorem replyReceived_events (r : List Byte) (s : State) : (replyReceived r s).events = s.events := rfl
@[simp] theorem replyReceived_linkUp (r : List Byte) (s : State) : (replyReceived r s).linkUp = s.linkUp := rfl
@[simp] theorem replyReceived_host (r : List Byte) (s : State) : (replyReceived r s).host = s.host := rfl
@[simp] theorem replyReceived_transport (r : List Byte) (s : State) : (replyReceived r s).transport = s.transport := rfl
@[simp] theorem replyReceived_wire (r : List Byte) (s : State) : (replyReceived r s).wire = s.wire := rfl
@[simp] theorem replyReceived_turns (r : List Byte) (s : State) : (replyReceived r s).turns = s.turns := rfl

@[simp] theorem popHost_params (rest : List HostOp) (s : State) : (popHost rest s).params = s.params := rfl
@[simp] theorem popHost_phase (rest : List HostOp) (s : State) : (popHost rest s).phase = s.phase := rfl
@[simp] theorem popHost_cur (rest : List HostOp) (s : State) : (popHost rest s).cur = s.cur := rfl
@[simp] theorem popHost_diag (rest : List HostOp) (s : State) : (popHost rest s).diag = s.diag := rfl
@[simp] theorem popHost_hdr (rest : List HostOp) (s : State) : (popHost rest s).hdr = s.hdr := rfl
@[simp] theorem popHost_hReg (rest : List HostOp) (s : State) : (popHost rest s).hReg = s.hReg := rfl
@[simp] theorem popHost_tReg (rest : List HostOp) (s : State) : (popHost rest s).tReg = s.tReg := rfl
@[simp] theorem popHost_kReg (rest : List HostOp) (s : State) : (popHost rest s).kReg = s.kReg := rfl
@[simp] theorem popHost_remReg (rest : List HostOp) (s : State) : (popHost rest s).remReg = s.remReg := rfl
@[simp] theorem popHost_sReg (rest : List HostOp) (s : State) : (popHost rest s).sReg = s.sReg := rfl
@[simp] theorem popHost_chunksDone (rest : List HostOp) (s : State) : (popHost rest s).chunksDone = s.chunksDone := rfl
@[simp] theorem popHost_resp (rest : List HostOp) (s : State) : (popHost rest s).resp = s.resp := rfl
@[simp] theorem popHost_txbuf (rest : List HostOp) (s : State) : (popHost rest s).txbuf = s.txbuf := rfl
@[simp] theorem popHost_rxbuf (rest : List HostOp) (s : State) : (popHost rest s).rxbuf = s.rxbuf := rfl
@[simp] theorem popHost_stg (rest : List HostOp) (s : State) : (popHost rest s).stg = s.stg := rfl
@[simp] theorem popHost_txseg (rest : List HostOp) (s : State) : (popHost rest s).txseg = s.txseg := rfl
@[simp] theorem popHost_rxseg (rest : List HostOp) (s : State) : (popHost rest s).rxseg = s.rxseg := rfl
@[simp] theorem popHost_events (rest : List HostOp) (s : State) : (popHost rest s).events = s.events := rfl
@[simp] theorem popHost_linkUp (rest : List HostOp) (s : State) : (popHost rest s).linkUp = s.linkUp := rfl
@[simp] theorem popHost_host (rest : List HostOp) (s : State) : (popHost rest s).host = ⟨rest, s.host.answers⟩ := rfl
@[simp] theorem popHost_transport (rest : List HostOp) (s : State) : (popHost rest s).transport = s.transport := rfl
@[simp] theorem popHost_wire (rest : List HostOp) (s : State) : (popHost rest s).wire = s.wire := rfl
@[simp] theorem popHost_turns (rest : List HostOp) (s : State) : (popHost rest s).turns = s.turns := rfl

@[simp] theorem offered_params (segs : List (List Byte)) (t : Transport) (s : State) : (offered segs t s).params = s.params := rfl
@[simp] theorem offered_phase (segs : List (List Byte)) (t : Transport) (s : State) : (offered segs t s).phase = s.phase := rfl
@[simp] theorem offered_cur (segs : List (List Byte)) (t : Transport) (s : State) : (offered segs t s).cur = s.cur := rfl
@[simp] theorem offered_diag (segs : List (List Byte)) (t : Transport) (s : State) : (offered segs t s).diag = s.diag := rfl
@[simp] theorem offered_hdr (segs : List (List Byte)) (t : Transport) (s : State) : (offered segs t s).hdr = s.hdr := rfl
@[simp] theorem offered_hReg (segs : List (List Byte)) (t : Transport) (s : State) : (offered segs t s).hReg = s.hReg := rfl
@[simp] theorem offered_tReg (segs : List (List Byte)) (t : Transport) (s : State) : (offered segs t s).tReg = s.tReg := rfl
@[simp] theorem offered_kReg (segs : List (List Byte)) (t : Transport) (s : State) : (offered segs t s).kReg = s.kReg := rfl
@[simp] theorem offered_remReg (segs : List (List Byte)) (t : Transport) (s : State) : (offered segs t s).remReg = s.remReg := rfl
@[simp] theorem offered_sReg (segs : List (List Byte)) (t : Transport) (s : State) : (offered segs t s).sReg = s.sReg := rfl
@[simp] theorem offered_chunksDone (segs : List (List Byte)) (t : Transport) (s : State) : (offered segs t s).chunksDone = s.chunksDone := rfl
@[simp] theorem offered_resp (segs : List (List Byte)) (t : Transport) (s : State) : (offered segs t s).resp = s.resp := rfl
@[simp] theorem offered_txbuf (segs : List (List Byte)) (t : Transport) (s : State) : (offered segs t s).txbuf = s.txbuf := rfl
@[simp] theorem offered_rxbuf (segs : List (List Byte)) (t : Transport) (s : State) : (offered segs t s).rxbuf = s.rxbuf := rfl
@[simp] theorem offered_stg (segs : List (List Byte)) (t : Transport) (s : State) : (offered segs t s).stg = s.stg := rfl
@[simp] theorem offered_txseg (segs : List (List Byte)) (t : Transport) (s : State) : (offered segs t s).txseg = s.txseg := rfl
@[simp] theorem offered_rxseg (segs : List (List Byte)) (t : Transport) (s : State) : (offered segs t s).rxseg = s.rxseg := rfl
@[simp] theorem offered_events (segs : List (List Byte)) (t : Transport) (s : State) : (offered segs t s).events = s.events := rfl
@[simp] theorem offered_linkUp (segs : List (List Byte)) (t : Transport) (s : State) : (offered segs t s).linkUp = s.linkUp := rfl
@[simp] theorem offered_host (segs : List (List Byte)) (t : Transport) (s : State) : (offered segs t s).host = s.host := rfl
@[simp] theorem offered_transport (segs : List (List Byte)) (t : Transport) (s : State) : (offered segs t s).transport = t := rfl
@[simp] theorem offered_wire (segs : List (List Byte)) (t : Transport) (s : State) : (offered segs t s).wire = s.wire ++ segs := rfl
@[simp] theorem offered_turns (segs : List (List Byte)) (t : Transport) (s : State) : (offered segs t s).turns = s.turns := rfl

end Sys2Proof.Machine
end

