-- ==== Sys2Proof/Laws/Transaction.lean ====
section
/-! SUPPORT. What each shared operation of a transaction can do, said once: cite these instead of unfolding the operation. -/

namespace Sys2Proof.Machine

open Sys2Proof.Config

theorem segmentSize_le_chunkMax (s : State) : segmentSize s ≤ s.params.chunkMax := Nat.min_le_left _ _

theorem segmentSize_le_rem (s : State) : segmentSize s ≤ s.remReg.toNat := Nat.min_le_right _ _

theorem headerPart_length_le (s : State) (g n : Nat) : (headerPart s g n).length ≤ n := by
  simp only [headerPart, List.length_take]
  omega

theorem length_of_bodyBytes (s : State) (i n : Nat) (bs : List Byte) (h : bodyBytes s i n = some bs) : bs.length = n := by
  unfold bodyBytes at h
  cases hop : s.cur.op <;> simp only [hop] at h
  case burstWrite => exact Mem.length_of_readRange _ _ _ _ h
  all_goals
    cases h
    simp

/-- The serializer gives as many bytes as it is asked for. -/
theorem length_of_requestBytes (s : State) (g n : Nat) (bs : List Byte) (h : requestBytes s g n = some bs) : bs.length = n := by
  obtain ⟨body, hb, rfl⟩ := Option.map_eq_some_iff.mp h
  have h1 := length_of_bodyBytes _ _ _ _ hb
  have h2 := headerPart_length_le s g n
  simp only [List.length_append]
  omega

/-- A built segment: the request bytes are in TXSEG, and STATE is FRAME_BUILT. -/
theorem buildSegment_next (s t : State) :
    buildSegment s = .next t ↔
      ∃ bs, requestBytes s (segmentStart s) (segmentSize s) = some bs ∧ t = segmentBuilt (segmentSize s) bs s := by
  unfold buildSegment
  cases requestBytes s (segmentStart s) (segmentSize s) <;> simp [eq_comm]

/-- Building faults only for a TXBUF byte with no value. -/
theorem buildSegment_fault (s : State) (r : Fault) :
    buildSegment s = .fault r ↔
      requestBytes s (segmentStart s) (segmentSize s) = none ∧ r = .framerNoValue .txbuf := by
  unfold buildSegment
  cases requestBytes s (segmentStart s) (segmentSize s) <;> simp [eq_comm]

/-- The serializer lacks bytes only in a BURST_WRITE. -/
theorem requestBytes_none_op (s : State) (g n : Nat) (h : requestBytes s g n = none) : s.cur.op = .burstWrite := by
  have hb := Option.map_eq_none_iff.mp h
  unfold bodyBytes at hb
  cases hop : s.cur.op <;> simp [hop] at hb ⊢

/-- Acceptance in IDLE: a failed check enters FAILED with nothing latched, a passed one latches and builds segment 0. -/
theorem accept_next (op : Op) (f : Fields) (s t : State) :
    accept op f s = .next t ↔
      (s.phase ≠ .idle ∧ t = s) ∨
      (s.phase = .idle ∧ ∃ e, precheck op f s = some e ∧ t = raise e.1 e.2 0#8 (clearProgress s)) ∨
      (s.phase = .idle ∧ precheck op f s = none ∧ buildSegment (latch op f (clearProgress s)) = .next t) := by
  unfold accept
  by_cases hp : s.phase = .idle
  · cases hc : precheck op f s <;> simp [hp, eq_comm]
  · simp [hp, eq_comm]

/-- What a failed check can be (40_transaction.md R142). -/
theorem precheck_some (op : Op) (f : Fields) (s : State) (e : Result × BitVec 4) (h : precheck op f s = some e) :
    e = (.invalidArgument, 3#4) ∨ e = (.resourceError, 1#4) ∨ e = (.transportError, 1#4) := by
  unfold precheck at h
  split at h
  · exact .inl (Option.some.inj h).symm
  · split at h
    · exact .inr (.inl (Option.some.inj h).symm)
    · split at h
      · exact .inr (.inr (Option.some.inj h).symm)
      · exact absurd h (by simp)

/-- The commit: VALIDATED, with RDATA from the reply of a READ and RXBUF written by a BURST_READ only. -/
theorem complete_next (s t : State) :
    complete s = .next t ↔
      ((s.cur.op = .write ∨ s.cur.op = .burstWrite) ∧ t = finish 0#8 s) ∨
      (s.cur.op = .read ∧ ∃ d, s.rxseg.read (s.tReg.toNat - 1) = some d ∧ t = finish d s) ∨
      (s.cur.op = .burstRead ∧ ∃ bs, s.stg.readRange 0 s.cur.n.toNat = some bs ∧
        t = finish 0#8 { s with rxbuf := s.rxbuf.writeRange 0 bs }) := by
  unfold complete
  cases hop : s.cur.op
  case write => simp [eq_comm]
  case burstWrite => simp [eq_comm]
  case read => cases s.rxseg.read (s.tReg.toNat - 1) <;> simp [eq_comm]
  case burstRead => cases s.stg.readRange 0 s.cur.n.toNat <;> simp [eq_comm]

/-- After a segment: the commit when the frame is done, else the next segment. -/
theorem continueOrComplete_next (s t : State) :
    continueOrComplete s = .next t ↔
      (s.remReg = 0#16 ∧ complete s = .next t) ∨ (s.remReg ≠ 0#16 ∧ buildSegment s = .next t) := by
  unfold continueOrComplete
  by_cases h : s.remReg = 0#16 <;> simp [h]

/-- AcceptSegment: the reply is staged (BURST_READ only), REM and K move on, and the frame is committed or goes on. -/
theorem acceptSegment_next (s t : State) :
    acceptSegment s = .next t ↔
      ∃ u, ((s.cur.op ≠ .burstRead ∧ u = advance s) ∨
            (s.cur.op = .burstRead ∧ ∃ r, s.rxseg.readRange 0 s.sReg.toNat = some r ∧ u = advance (stageReply r s))) ∧
        ((u.remReg = 0#16 ∧ complete u = .next t) ∨ (u.remReg ≠ 0#16 ∧ buildSegment u = .next t)) := by
  unfold acceptSegment
  simp only [← continueOrComplete_next]
  by_cases hop : s.cur.op = .burstRead
  · cases s.rxseg.readRange 0 s.sReg.toNat <;> simp [hop]
  · simp [hop]

/-- Validate: a status byte that must be the success marker and is not ends in REMOTE_NACK; otherwise the segment is accepted. -/
theorem validate_next (s t : State) :
    validate s = .next t ↔
      (statusRequired s.params.burstWriteStatus s.cur.op (s.remReg = s.sReg) = false ∧ acceptSegment s = .next t) ∨
      (statusRequired s.params.burstWriteStatus s.cur.op (s.remReg = s.sReg) = true ∧
        ∃ v, s.rxseg.read statusOffset = some v ∧
          ((v ≠ successMarker ∧ t = raise .remoteNack 1#4 v s) ∨ (v = successMarker ∧ acceptSegment s = .next t))) := by
  unfold validate
  cases hq : statusRequired s.params.burstWriteStatus s.cur.op (s.remReg = s.sReg)
  · simp
  · cases hv : s.rxseg.read statusOffset with
    | none => simp
    | some v => by_cases hm : v = successMarker <;> simp [hm, eq_comm]

/-- The receive: Err, a short reply, a long reply, or a reply of the exact length, which is validated. -/
theorem receive_next (ans : RecvAnswer) (s t : State) :
    receive ans s = .next t ↔
      (ans = .err ∧ t = raise .transportError 3#4 0#8 s) ∨
      ∃ r, ans = .bytes r ∧
        ((r.length < s.sReg.toNat ∧ t = raise .shortResponse 1#4 0#8 s) ∨
         (s.sReg.toNat < r.length ∧ t = raise .shortResponse 2#4 0#8 s) ∨
         (r.length = s.sReg.toNat ∧ validate (replyReceived r s) = .next t)) := by
  unfold receive
  cases ans with
  | err => simp [eq_comm]
  | bytes r =>
    by_cases h1 : r.length < s.sReg.toNat
    · simp [h1, show ¬ s.sReg.toNat < r.length by omega, show r.length ≠ s.sReg.toNat by omega, eq_comm]
    · by_cases h2 : s.sReg.toNat < r.length
      · simp [h1, h2, show r.length ≠ s.sReg.toNat by omega, eq_comm]
      · simp [show r.length = s.sReg.toNat by omega]

/-- The send: SENT for the exact count, else the entry into FAILED. -/
theorem send_cases (ans : SendAnswer) (s : State) :
    (ans = .count s.sReg.toNat ∧ send ans s = { s with phase := .sent }) ∨
      (ans ≠ .count s.sReg.toNat ∧ send ans s = raise .transportError 2#4 0#8 s) := by
  cases ans with
  | err => exact .inr ⟨by simp, rfl⟩
  | count c =>
    by_cases h : c = s.sReg.toNat
    · subst h
      exact .inl ⟨rfl, by simp [send]⟩
    · exact .inr ⟨by simpa using h, by simp [send, h]⟩

end Sys2Proof.Machine
end

