-- ==== Sys2Proof/Laws/Step.lean ====
section
/-! SUPPORT. What a step can do, said once: every step that answers a next state is one of the cases of `step_next`. -/

namespace Sys2Proof.Machine

open Sys2Proof.Config

theorem send_phase (ans : SendAnswer) (s : State) : (send ans s).phase = .sent ∨ (send ans s).phase = .failed := by
  rcases send_cases ans s with ⟨-, h⟩ | ⟨-, h⟩ <;> simp [h]

/-- The TRANSPORT's step: the answer to a send, or to a receive. -/
theorem transportStep_next (s t : State) :
    transportStep s = some (.next t) ↔
      (s.phase = .frameBuilt ∧ ∃ seg a, s.txseg.readRange 0 s.sReg.toNat = some seg ∧
        s.transport.onSend s.params.chunkMax seg = some a ∧ t = send a.1 (offered [seg] a.2 s)) ∨
      (s.phase = .awaitingReply ∧ ∃ a, s.transport.onRecv s.sReg.toNat = some a ∧ receive a.1 (offered [] a.2 s) = .next t) := by
  unfold transportStep
  cases hp : s.phase <;> simp only [reduceCtorEq, false_and, true_and, or_false, false_or]
  case frameBuilt =>
    unfold transportSend
    cases s.txseg.readRange 0 s.sReg.toNat with
    | none => simp
    | some seg =>
      cases h : s.transport.onSend s.params.chunkMax seg with
      | none => simp [h]
      | some a =>
        constructor
        · intro he
          exact ⟨seg, a, rfl, h, by simpa [h, eq_comm] using he⟩
        · rintro ⟨seg', a', hs, ha, rfl⟩
          cases Option.some.inj hs
          cases Option.some.inj (h.symm.trans ha)
          simp [h]
  case awaitingReply =>
    unfold transportReceive
    cases s.transport.onRecv s.sReg.toNat <;> simp

/-- The HOST's turn: it waits, or its next action is done. -/
theorem hostMove_next (s t : State) :
    hostMove s = .next t ↔
      (t = s ∧ (s.host.program = [] ∨ ∃ o rest, s.host.program = o :: rest ∧ hostOp o (popHost rest s) = none)) ∨
      ∃ o rest, s.host.program = o :: rest ∧ hostOp o (popHost rest s) = some (.next t) := by
  unfold hostMove
  cases s.host.program with
  | nil => simp [eq_comm]
  | cons o rest => cases h : hostOp o (popHost rest s) <;> simp [h, eq_comm]

/-- The state a turn starts from: the turn itself is used up. -/
def afterTurn (s : State) : State := { s with turns := s.turns.tail }

/-- A step that answers a next state, from the state `u` in which the turn is used up: nothing changes (an agent waits); or the HOST's
next action; or IssueReceive; or a TRANSPORT answer; or a change of `link_up`; or reset. -/
theorem step_next (s t : State) (h : step s = .next t) :
    t = afterTurn s ∨
    (∃ o rest, s.host.program = o :: rest ∧ hostOp o (popHost rest (afterTurn s)) = some (.next t)) ∨
    (s.phase = .sent ∧ t = issueReceive (afterTurn s)) ∨
    transportStep (afterTurn s) = some (.next t) ∨
    (∃ v ts, s.turns = .link v :: ts ∧ t = { afterTurn s with linkUp := v }) ∨
    (∃ ts, s.turns = .reset :: ts ∧ t = applyReset (afterTurn s)) := by
  have hhost : ∀ u : State, hostMove u = .next t → t = u ∨
      ∃ o rest, u.host.program = o :: rest ∧ hostOp o (popHost rest u) = some (.next t) := by
    intro u hu
    rcases (hostMove_next u t).mp hu with ⟨rfl, -⟩ | hu
    · exact .inl rfl
    · exact .inr hu
  unfold step takeTurn at h
  cases hts : s.turns with
  | nil =>
    have hs : afterTurn s = s := by
      cases s
      simp_all [afterTurn]
    simp only [hts, freeMove] at h
    rw [hs]
    by_cases hp : s.phase = .sent
    · simp only [hp, if_true, framerMove, Host.Outcome.next.injEq] at h
      exact .inr (.inr (.inl ⟨hp, h.symm⟩))
    · rw [if_neg hp] at h
      cases htr : transportStep s with
      | none =>
        rw [htr] at h
        rcases hhost s h with h | h
        · exact .inl h
        · exact .inr (.inl h)
      | some o =>
        rw [htr] at h
        exact .inr (.inr (.inr (.inl (congrArg some h))))
  | cons u ts =>
    have hs : afterTurn s = { s with turns := ts } := by simp [afterTurn, hts]
    rw [hs]
    cases u <;> simp only [hts] at h
    case host =>
      rcases hhost _ h with h | h
      · exact .inl h
      · exact .inr (.inl h)
    case framer =>
      unfold framerMove at h
      split at h
      next hp => exact .inr (.inr (.inl ⟨hp, (Host.Outcome.next.inj h).symm⟩))
      next => exact .inl (Host.Outcome.next.inj h).symm
    case transport =>
      unfold transportMove at h
      cases htr : transportStep { s with turns := ts } with
      | none =>
        rw [htr] at h
        exact .inl (Host.Outcome.next.inj h).symm
      | some o =>
        rw [htr] at h
        exact .inr (.inr (.inr (.inl (congrArg some h))))
    case link v => exact .inr (.inr (.inr (.inr (.inl ⟨v, ts, rfl, (Host.Outcome.next.inj h).symm⟩))))
    case reset => exact .inr (.inr (.inr (.inr (.inr ⟨ts, rfl, (Host.Outcome.next.inj h).symm⟩))))

end Sys2Proof.Machine
end

