-- ==== Sys2Proof/Tests/Slice0.lean ====
section
/-! SUPPORT. Tests: decoding of words written out from the spec's encodings, the well-formedness checks, at most two small theorems per
command with results taken from 95_test_vectors.md, and for every statement with hypotheses a state that meets them. -/

namespace Sys2Proof.Tests

open Sys2Proof.Machine Sys2Proof.Config Sys2Proof.Safety

/-! Well-formedness: an ill-formed descriptor for each check (30_encoding.md R118), and a well-formed one. -/

theorem test_reserved_op_refused : opLegal 0x0000000000000005#64 = false := by decide
theorem test_reserved_low_bits_refused : rsvd0Zero 0x0000000000000010#64 = false := by decide
theorem test_reserved_high_bits_refused : rsvd1Zero 0x0001000000000001#64 = false := by decide
theorem test_command_well_formed : descriptorWellFormed 0x000009C400200002#64 = true := by decide

/-! Decoding, field by field as 30_encoding.md R101 places them: RSVD1, N, WDATA, ADDR, MUX, RSVD0, MODE, OP. -/

theorem test_decode_write :
    decode (0b0000000000000000#16 ++ 0x0000#16 ++ 0x42#8 ++ 0x05#8 ++ 0x02#8 ++ 0b0000#4 ++ 0b1#1 ++ 0b000#3) =
      .ok (.write ⟨.multiplexed, 0x02#8, 0x05#8, 0x42#8, 0x0000#16⟩) := by rfl
theorem test_decode_read :
    decode (0b0000000000000000#16 ++ 0x0000#16 ++ 0x00#8 ++ 0x85#8 ++ 0x00#8 ++ 0b0000#4 ++ 0b0#1 ++ 0b001#3) =
      .ok (.read ⟨.direct, 0x00#8, 0x85#8, 0x00#8, 0x0000#16⟩) := by rfl
theorem test_decode_burst_write :
    decode (0b0000000000000000#16 ++ 0x09C4#16 ++ 0x00#8 ++ 0x20#8 ++ 0x00#8 ++ 0b0000#4 ++ 0b0#1 ++ 0b010#3) =
      .ok (.burstWrite ⟨.direct, 0x00#8, 0x20#8, 0x00#8, 2500#16⟩) := by rfl
theorem test_decode_burst_read :
    decode (0b0000000000000000#16 ++ 0x0003#16 ++ 0x00#8 ++ 0x20#8 ++ 0x01#8 ++ 0b0000#4 ++ 0b1#1 ++ 0b011#3) =
      .ok (.burstRead ⟨.multiplexed, 0x01#8, 0x20#8, 0x00#8, 3#16⟩) := by rfl
/-- V-D5: a reserved OP wins over reserved bits. -/
theorem test_decode_reserved_op_first : decode 0x0001000000000004#64 = .error .reservedOp := by rfl
/-- V-D3, V-D4: reserved bits. -/
theorem test_decode_reserved_bits :
    decode 0x0000000000000010#64 = .error .reservedBits ∧ decode 0x0001000000000001#64 = .error .reservedBits := ⟨rfl, rfl⟩
theorem test_table_word : decodeTableWord 64 0x000000030020010B =
    some (.burstRead ⟨.multiplexed, 0x01#8, 0x20#8, 0x00#8, 3#16⟩) := by rfl

/-! Assembly (30_encoding.md R119-R121). -/

theorem test_assemble_write : assembleLine "WRITE.D 0x05, 0x42 ; first row of R121".toList = .word 0x0000000042050000#64 := by
  decide
theorem test_assemble_burst_read : assembleLine "BURST_READ.M 0x01, 0x20, 3".toList = .word 0x000000030020010B#64 := by
  decide
theorem test_assemble_out_of_range : assembleLine "READ.D 256".toList = .error := by decide

/-! Small states. -/

/-- The smallest legal C, eight bytes of buffer, all of TXBUF written. -/
def base : State := { State.reset with params := ⟨6, 8, .last⟩, txbuf := Mem.cells 0 [0x11, 0x22, 0x33, 0x44, 0x55, 0x66, 0x77, 0x88] }

/-- The next state an outcome gives, `base` where it gives none. -/
def nextOf (o : Host.Outcome State Fault Refusal) : State :=
  match o with
  | .next t => t
  | .fault _ => base
  | .refused _ => base

/-- An outcome's fault, if it is one. -/
def faultOf (o : Host.Outcome State Fault Refusal) : Option Fault :=
  match o with
  | .next _ => none
  | .fault r => some r
  | .refused _ => none

/-- An outcome is a next state. -/
def isNext (o : Host.Outcome State Fault Refusal) : Bool :=
  match o with
  | .next _ => true
  | .fault _ => false
  | .refused _ => false

theorem next_of_isNext (o : Host.Outcome State Fault Refusal) (h : isNext o = true) : o = .next (nextOf o) := by
  cases o <;> simp_all [isNext, nextOf]

/-- A Direct command's fields. -/
def direct (addr wdata : Byte) (n : Half) : Fields := ⟨.direct, 0#8, addr, wdata, n⟩

/-- The HOST's turn, with one action. -/
def hostTurn (o : HostOp) (p : Phase) : State := { base with phase := p, turns := [.host], host := ⟨[o], []⟩ }

/-- Segment 0 of a command is offered. -/
def offering (i : Instr) : State := nextOf (exec i base)

/-- Segment 0 of a command is sent, and the TRANSPORT's turn to answer its receive has come. -/
def awaiting (i : Instr) (a : RecvAnswer) : State :=
  { offering i with phase := .awaitingReply, turns := [.transport], transport := .free [] [a] }

/-- Segment 1 of a command is sent, the reply `a` to segment 0 having been accepted, and the TRANSPORT's turn to answer its receive has
come. -/
def awaitingSecond (i : Instr) (a b : RecvAnswer) : State :=
  { nextOf (step (awaiting i a)) with phase := .awaitingReply, turns := [.transport], transport := .free [] [b] }

/-- The same state, with BURST_WRITE_STATUS = EVERY. -/
def checkingEvery (s : State) : State := { s with params := { s.params with burstWriteStatus := .every } }

/-! The commands (95_test_vectors.md). -/

/-- V-S1. -/
theorem test_write_frame :
    (offering (.write (direct 0x05 0x42 0))).txseg.readRange 0 5 = some [0x01, 0x00, 0x05, 0x85, 0x42] := by decide
/-- V-S5: the masked address bit is reported and the bytes are those of V-S1. -/
theorem test_write_masked_address :
    (offering (.write (direct 0x85 0x42 0))).events = [.addrMasked 0x85, .frameBuilt 0 5] ∧
    (offering (.write (direct 0x85 0x42 0))).txseg = (offering (.write (direct 0x05 0x42 0))).txseg := by decide
/-- V-S4. -/
theorem test_read_frame_multiplexed :
    (offering (.read ⟨.multiplexed, 0x01, 0x7F, 0, 0⟩)).txseg.readRange 0 6 = some [0x12, 0x00, 0x06, 0x01, 0x7F, 0x00] := by
  decide
/-- V-S12: a NACK leaves RDATA 0. -/
theorem test_read_nack :
    (nextOf (step (awaiting (.read (direct 0x05 0 0)) (.bytes [0x7F, 0, 0, 0, 0x42])))).resp = 0x0000000100007F14#64 := by
  decide
/-- V-B18: with C = 6 the header and two payload bytes are segment 0, one byte is left. -/
theorem test_burst_write_smallest_chunk :
    (offering (.burstWrite (direct 0x01 0 3))).txseg.readRange 0 6 = some [0x03, 0x00, 0x07, 0x81, 0x11, 0x22] ∧
    (offering (.burstWrite (direct 0x01 0 3))).remReg = 7#16 := by decide
/-- V-B21: a payload byte never written faults the acceptance. -/
theorem test_burst_write_unwritten :
    faultOf (exec (.burstWrite (direct 0x20 0 2)) { base with txbuf := [(0, 0xAA)] }) = some (.framerNoValue .txbuf) := by decide
/-- V-B19: header positions are stripped, the data byte reaches RXBUF. -/
theorem test_burst_read_commit :
    (nextOf (step (awaiting (.burstRead ⟨.multiplexed, 0x00, 0x01, 0, 1⟩) (.bytes [0xFF, 0, 0, 0, 0, 0x77])))).rxbuf =
      [(0, 0x77#8)] := by decide
/-- V-D9: BUFFER_CAPACITY wins over LINK_DOWN. -/
theorem test_burst_read_capacity_first :
    (nextOf (exec (.burstRead (direct 0x20 0 0xFFFF)) { State.reset with linkUp := false })).resp = 0x15#64 := by decide
/-- V-R6, V-R8. -/
theorem test_status_words :
    statusWord { State.reset with phase := .validated } = 0x1C#8 ∧
    statusWord { State.reset with phase := .failed, linkUp := false } = 0x0D#8 := by decide
/-- A command placed for the host is the next step's. -/
theorem test_placed_word_runs :
    (nextOf (step (State.reset.withFetchWord 64 0x0000000042050000))).txseg.readRange 0 5 =
      some [0x01, 0x00, 0x05, 0x85, 0x42] := by decide
/-- Rules R78 and R80 (20_memory.md): the reference peer stores what a WRITE sends, and answers with the marker. -/
theorem test_peer_write :
    ((Peer.start []).onSend 6 [0x01, 0x00, 0x05, 0x85, 0x42]).2.seqD = [(5, [0x42])] ∧
    ((Peer.start []).onSend 6 [0x01, 0x00, 0x05, 0x85, 0x42]).2.reply = some [0xFF, 0, 0, 0, 0] := by decide
/-- Rule R82 (20_memory.md): a short reply keeps the first bytes. -/
theorem test_peer_short_reply :
    (((Peer.start [(0, .replyLen 3)]).onSend 6 [0x02, 0x00, 0x05, 0x05, 0x00]).2.onRecv 5).map (·.1) =
      some (.bytes [0xFF, 0, 0]) := by decide

/-- The reference peer with a fault for segment 1, in the middle of a frame of 12 bytes. -/
def midFrame (f : PeerFault) : Peer := { Peer.start [(1, f)] with pos := 6, head := [0x03, 0x00, 0x0C, 0x81], segNo := 1 }
/-- Its answer to the receive of a WRITE's 5 bytes, a segment out of step with that frame. -/
def outOfStep (f : PeerFault) : Option RecvAnswer :=
  (((midFrame f).onSend 6 [0x01, 0x00, 0x05, 0x85, 0x42]).2.onRecv 5).map (fun x => x.1)
/-- Rule R82 (20_memory.md): a scripted RecvErr answers there too, and Status has no reply to change. -/
theorem test_peer_recv_err_out_of_step : outOfStep .recvErr = some .err ∧ outOfStep (.status 0x01) = none := by decide
/-- Rule R82 (20_memory.md): so does a ReplyLen, with a reply of its length. -/
theorem test_peer_reply_len_out_of_step : ∃ r, outOfStep (.replyLen 3) = some (.bytes r) ∧ r.length = 3 := ⟨_, rfl, rfl⟩

/-! Witnesses: for each statement with hypotheses, a state and operands that meet all of them, one for each clause. -/

theorem test_hyps_EncodeInvertsDecode : ∃ i, decode 0x0000FFFFFFFFFF0B#64 = .ok i := ⟨_, rfl⟩
theorem test_hyps_DecodeByMaskAndMatch :
    (4 ≤ ((4#64).extractLsb' 0 3).toNat ∧ 4 ≤ ((7#64).extractLsb' 0 3).toNat) ∧
    (((3#64 + 0x10#64).extractLsb' 0 3).toNat < 4 ∧ (3#64 + 0x10#64).extractLsb' 4 4 ≠ 0#4) ∧
    (((0x8000000000000003#64).extractLsb' 0 3).toNat < 4 ∧ (0x8000000000000003#64).extractLsb' 48 16 ≠ 0#16) ∧
    (base.phase = .idle ∧ 4 ≤ (4#64 &&& 0xFFFF0000000000F7#64).toNat) := by decide
theorem test_hyps_AssembledLinesDecode :
    assembleCommand .write .multiplexed [255, 255, 255] = .word 0x00000000FFFFFF08#64 ∧
    assembleCommand .burstRead .direct [0, 65535] = .word 0x0000FFFF00000003#64 ∧
    assembleCommand .write .direct [256, 0] = .error ∧ assembleCommand .write .multiplexed [0, 0, 256] = .error ∧
    assembleCommand .read .multiplexed [256, 0] = .error ∧ assembleCommand .burstWrite .direct [0, 65536] = .error := by decide
theorem test_hyps_LenFieldRoundTrips :
    (⟨65535, 65530, .last⟩ : Params).legal ∧ Op.burstWrite.isBurst = true ∧ (65530#16).toNat ≤ 65530 := by decide
theorem test_hyps_HeaderInWireOrder :
    (direct 0 0 0).mode = .direct ∧ (⟨.multiplexed, 0, 0, 0, 0⟩ : Fields).mode = .multiplexed := by decide
theorem test_hyps_SegmentBytesAreSerializerBytes :
    (offering (.burstWrite (direct 1 0 8))).hReg.toNat ≤ 5 ∧ (offering (.burstWrite (direct 1 0 8))).txbuf.wf := by decide
theorem test_hyps_SegmentsTileTheFrame :
    (offering (.burstWrite (direct 1 0 8))).params.legal ∧ (offering (.burstWrite (direct 1 0 8))).hReg.toNat ≤ 5 ∧
    (offering (.burstWrite (direct 1 0 8))).txbuf.wf ∧
    (offering (.burstWrite (direct 1 0 8))).hReg.toNat < (offering (.burstWrite (direct 1 0 8))).tReg.toNat ∧
    requestBytes (offering (.burstWrite (direct 1 0 8))) 0 12 =
      some [0x03, 0x00, 0x0C, 0x81, 0x11, 0x22, 0x33, 0x44, 0x55, 0x66, 0x77, 0x88] := by decide
theorem test_hyps_WriteAccepted_ReadAccepted : base.params.legal ∧ base.phase = .idle ∧ base.linkUp = true := by decide
theorem test_hyps_BurstWriteAccepted :
    base.params.legal ∧ base.phase = .idle ∧ base.linkUp = true ∧ 1 ≤ (8#16).toNat ∧ (8#16).toNat ≤ base.params.bufSize ∧
    base.txbuf.readRange 0 (min (base.params.chunkMax - (burstWriteHeader (direct 1 0 8)).length) (8#16).toNat) =
      some [0x11, 0x22] := by decide
theorem test_hyps_BurstReadAccepted :
    base.params.legal ∧ base.phase = .idle ∧ base.linkUp = true ∧ 1 ≤ (1#16).toNat ∧ (8#16).toNat ≤ base.params.bufSize := by decide
theorem test_hyps_UnwrittenPayloadFaults :
    let s := { base with txbuf := [(0, 0xAA#8)] }
    s.params.legal ∧ s.phase = .idle ∧ s.linkUp = true ∧ 1 ≤ (2#16).toNat ∧ (2#16).toNat ≤ s.params.bufSize ∧
    1 < min (s.params.chunkMax - headerLen .direct) (2#16).toNat ∧ s.txbuf.read 1 = none := by decide
/-- Segment 1 needs bytes 2 to 7 of TXBUF, and the first and the last of them have no value. -/
theorem test_hyps_UnwrittenPayloadFaults_later :
    let s := awaiting (.burstWrite (direct 1 0 8)) (.bytes [0, 0, 0, 0, 0, 0])
    let u := { s with txbuf := Mem.cells 3 [0x44, 0x55, 0x66, 0x77] }
    transactionGeometry u ∧ u.params.legal ∧ u.turns = [.transport] ∧ u.transport = .free [] [.bytes [0, 0, 0, 0, 0, 0]] ∧
    u.phase = .awaitingReply ∧ u.cur.op = .burstWrite ∧ u.sReg.toNat = 6 ∧ u.sReg.toNat < u.remReg.toNat ∧
    statusRequired u.params.burstWriteStatus .burstWrite false = false ∧ segmentStart u + u.sReg.toNat = u.hReg.toNat + 2 ∧
    u.hReg.toNat + 7 + 1 = segmentStart u + u.sReg.toNat + min u.params.chunkMax (u.remReg.toNat - u.sReg.toNat) ∧
    u.txbuf.read 2 = none ∧ u.txbuf.read 7 = none ∧ faultOf (step u) = some (.framerNoValue .txbuf) := by decide
theorem test_hyps_AcceptanceFrame :
    isNext (exec (.burstRead (direct 1 0 8)) base) = true ∧ isNext (exec (.burstRead (direct 1 0 0)) base) = true := by decide
theorem test_hyps_FailedChecksLatchNothing :
    isNext (present 4#64 base) = true ∧ (nextOf (present 4#64 base)).phase = .failed ∧ State.reset.phase = .idle ∧
    { State.reset with params := base.params }.params.bufSize = base.params.bufSize := by decide
theorem test_hyps_ChecksBeforeIoInOrder :
    (nextOf (present 7#64 base)).resp = 0x11#64 ∧ (nextOf (present 0x13#64 base)).resp = 0x21#64 ∧
    (nextOf (present 2#64 base)).resp = 0x31#64 ∧ (nextOf (present 0x0000000900000003#64 base)).resp = 0x15#64 ∧
    (nextOf (present 0x0000000800000003#64 { base with linkUp := false })).resp = 0x12#64 ∧
    (nextOf (present 0x0000000800000003#64 base)).phase = .frameBuilt ∧
    faultOf (present 0x0000000100000002#64 { base with txbuf := [] }) = some (.framerNoValue .txbuf) := by decide
theorem test_hyps_FailedCheckResponses :
    idleClean base ∧ (Instr.burstRead (direct 1 0 0)).op.isBurst = true ∧
    ((9#16) ≠ 0#16 ∧ base.params.bufSize < (9#16).toNat) ∧
    ((8#16) ≠ 0#16 ∧ (8#16).toNat ≤ base.params.bufSize ∧ { base with linkUp := false }.linkUp = false) := by decide
theorem test_hyps_StepRunsPresentedCommand :
    let s := hostTurn (.issue 0#64) .idle
    s.phase = .idle ∧ s.host.program = [.issue 0#64] ∧ decode 0#64 = .ok (.write (direct 0 0 0)) ∧ s.turns = [.host] ∧
    { s with turns := [] }.turns = [] := ⟨rfl, rfl, rfl, rfl, rfl⟩
theorem test_hyps_CommandWaitsUnlessIdle :
    (hostTurn (.issue 0#64) .sent).turns = [.host] ∧ (hostTurn (.issue 0#64) .sent).phase ≠ .idle ∧
    isNext (step { offering (.write (direct 1 0 0)) with phase := .sent }) = true ∧
    (nextOf (step { offering (.write (direct 1 0 0)) with phase := .sent })).phase.busy = true := by decide
theorem test_hyps_SendAnswered :
    let s := { offering (.write (direct 1 2 0)) with turns := [.transport], transport := .free [.count 5] [] }
    let u := { base with turns := [.transport], transport := .free [.err] [] }
    s.turns = [.transport] ∧ s.transport = .free [.count 5] [] ∧ s.phase = .frameBuilt ∧
    s.txseg.readRange 0 s.sReg.toNat = some [0x01, 0x00, 0x05, 0x81, 0x02] ∧
    SendAnswer.count 5 = .count s.sReg.toNat ∧ SendAnswer.count 6 ≠ .count s.sReg.toNat ∧
    u.txseg.readRange 0 u.sReg.toNat = some [] ∧ u.phase ≠ .frameBuilt ∧ u.phase ≠ .awaitingReply := by decide
theorem test_hyps_ReceiveIssuedInSent :
    { base with turns := [.framer], phase := .sent }.phase = .sent ∧ { base with turns := [.framer] }.phase ≠ .sent := by decide
theorem test_hyps_ReceiveAnswered :
    let s := awaiting (.write (direct 1 2 0)) (.bytes [0xFF, 0, 0, 0, 0])
    s.turns = [.transport] ∧ s.transport = .free [] [.bytes [0xFF, 0, 0, 0, 0]] ∧ s.phase = .awaitingReply ∧
    [0xFF#8, 0, 0, 0].length < s.sReg.toNat ∧ s.sReg.toNat < [0xFF#8, 0, 0, 0, 0, 0].length ∧
    [0xFF#8, 0, 0, 0, 0].length = s.sReg.toNat ∧ (awaiting (.write (direct 1 2 0)) .err).transport = .free [] [.err] := by decide
theorem test_hyps_WrongStatusByteFails :
    let s := awaiting (.write (direct 1 2 0)) (.bytes [0xFE, 0, 0, 0, 0])
    s.turns = [.transport] ∧ s.transport = .free [] [.bytes (0xFE :: [0, 0, 0, 0])] ∧ s.phase = .awaitingReply ∧
    [0#8, 0, 0, 0].length + 1 = s.sReg.toNat ∧ 0xFE#8 ≠ 0xFF#8 ∧
    statusRequired s.params.burstWriteStatus s.cur.op (s.remReg = s.sReg) = true := by decide
theorem test_hyps_AcceptedSegmentBuildsNext :
    let s := awaiting (.burstWrite (direct 1 0 8)) (.bytes [0, 0, 0, 0, 0, 0])
    transactionGeometry s ∧ s.phase = .awaitingReply ∧ s.sReg.toNat = 6 ∧ s.sReg.toNat < s.remReg.toNat ∧
    statusRequired s.params.burstWriteStatus s.cur.op false = false ∧
    requestBytes s (segmentStart s + s.sReg.toNat) (min s.params.chunkMax (s.remReg.toNat - s.sReg.toNat)) =
      some [0x33, 0x44, 0x55, 0x66, 0x77, 0x88] := by decide
/-- The same with a status byte that must be the marker. -/
theorem test_hyps_AcceptedSegmentBuildsNext_checked :
    let s := checkingEvery (awaiting (.burstWrite (direct 1 0 8)) (.bytes [0xFF, 0, 0, 0, 0, 0]))
    transactionGeometry s ∧ s.phase = .awaitingReply ∧ s.sReg.toNat = 6 ∧ s.sReg.toNat < s.remReg.toNat ∧
    statusRequired s.params.burstWriteStatus s.cur.op false = true ∧ [0xFF#8, 0, 0, 0, 0, 0].head? = some 0xFF#8 ∧
    requestBytes s (segmentStart s + s.sReg.toNat) (min s.params.chunkMax (s.remReg.toNat - s.sReg.toNat)) =
      some [0x33, 0x44, 0x55, 0x66, 0x77, 0x88] := by decide
/-- The same in the middle one of a BURST_READ's three segments: byte 0 of STG is kept, 1 to 6 are the reply's, 7 has no value yet. -/
theorem test_hyps_AcceptedSegmentBuildsNext_burst_read :
    let s := awaitingSecond (.burstRead ⟨.multiplexed, 0, 1, 0, 8⟩) (.bytes [0, 0, 0, 0, 0, 1]) (.bytes [2, 3, 4, 5, 6, 7])
    s.params.legal ∧ transactionGeometry s ∧ s.phase = .awaitingReply ∧ s.cur.op = .burstRead ∧ s.kReg = 1#16 ∧
    s.sReg.toNat = 6 ∧ s.sReg.toNat < s.remReg.toNat ∧ 0 + s.hReg.toNat < segmentStart s ∧
    segmentStart s + s.sReg.toNat ≤ 7 + s.hReg.toNat ∧
    requestBytes s (segmentStart s + s.sReg.toNat) (min s.params.chunkMax (s.remReg.toNat - s.sReg.toNat)) = some [0] ∧
    (nextOf (step s)).stg = [(0, 1#8), (1, 2#8), (2, 3#8), (3, 4#8), (4, 5#8), (5, 6#8), (6, 7#8)] := by decide
/-- WRITE, READ and BURST_WRITE, their last reply checked. -/
theorem test_hyps_LastReplyCommits_checked :
    let s := awaiting (.write (direct 5 0x42 0)) (.bytes [0xFF, 0, 0, 0, 0])
    let u := awaiting (.read (direct 5 0 0)) (.bytes [0xFF, 0, 0, 0, 0x42])
    let v := awaiting (.burstWrite (direct 5 0 2)) (.bytes [0xFF, 0, 0, 0, 0, 0])
    (∀ x ∈ [s, u, v], x.params.legal ∧ x.stg.wf ∧ transactionGeometry x ∧ x.phase = .awaitingReply ∧ x.remReg = x.sReg ∧
      statusRequired x.params.burstWriteStatus x.cur.op true = true) ∧
    s.sReg.toNat = 5 ∧ u.sReg.toNat = 5 ∧ v.sReg.toNat = 6 ∧ (nextOf (step u)).resp = 0x0000000100420000#64 := by decide
/-- A BURST_READ's second and last reply: bytes 0 and 1 come from STG, 2 to 7 from the reply. -/
theorem test_hyps_LastReplyCommits_staged :
    let s := awaitingSecond (.burstRead (direct 1 0 8)) (.bytes [0, 0, 0, 0, 1, 2]) (.bytes [3, 4, 5, 6, 7, 8])
    s.params.legal ∧ s.stg.wf ∧ transactionGeometry s ∧ s.phase = .awaitingReply ∧ s.cur.op = .burstRead ∧ s.kReg = 1#16 ∧
    s.sReg.toNat = 6 ∧ s.remReg = s.sReg ∧ 1 < segmentStart s - s.hReg.toNat ∧
    (∀ i < segmentStart s - s.hReg.toNat, s.stg.read i ≠ none) ∧
    (nextOf (step s)).rxbuf = [(0, 1#8), (1, 2#8), (2, 3#8), (3, 4#8), (4, 5#8), (5, 6#8), (6, 7#8), (7, 8#8)] := by decide
theorem test_hyps_RaiseRecordsFailure : Result.remoteNack ≠ .ok := by decide
theorem test_hyps_ResponseHandshake :
    (hostTurn .takeResponse .validated).phase = .validated ∧ (hostTurn .takeResponse .failed).phase = .failed ∧
    (hostTurn .takeResponse .idle).phase ≠ .validated ∧ (hostTurn .takeResponse .idle).phase ≠ .failed := by decide
theorem test_hyps_EntryToIdleClears :
    isNext (step (hostTurn .takeResponse .failed)) = true ∧ (nextOf (step (hostTurn .takeResponse .failed))).phase = .idle ∧
    ¬ resetTurn (hostTurn .takeResponse .failed) := by decide
theorem test_hyps_ResetFromAnyState :
    { offering (.write (direct 1 2 0)) with turns := [.reset] }.turns = [.reset] := by decide
theorem test_hyps_HangIsKept :
    let s := offering (.write (direct 1 2 0))
    s.turns = [] ∧ s.host.program = [] ∧ s.transport = .free [] [] ∧
    s.txseg.readRange 0 s.sReg.toNat = some [0x01, 0x00, 0x05, 0x81, 0x02] ∧ s.phase = .frameBuilt ∧
    { s with phase := .awaitingReply }.phase = .awaitingReply := by decide
theorem test_hyps_OnlyListedTransitions_ParametersAndLinkStay_MemoriesStayCanonical_RespStaysConsistent :
    isNext (step (hostTurn (.issue 0#64) .idle)) = true ∧ memoriesCanonical (hostTurn (.issue 0#64) .idle) ∧
    respConsistent (hostTurn (.issue 0#64) .idle) := by decide
theorem test_hyps_TxbufWrittenOnlyByHost :
    isNext (step (hostTurn (.writeTx 7 0xAB) .idle)) = true ∧
    (nextOf (step (hostTurn (.writeTx 7 0xAB) .idle))).txbuf ≠ (hostTurn (.writeTx 7 0xAB) .idle).txbuf := by decide
theorem test_hyps_RxbufWrittenOnlyByCommit_RespWrittenOnlyAtCompletion_ChunksDoneCountsReplies :
    let s := awaiting (.burstRead (direct 1 0 2)) (.bytes [0, 0, 0, 0, 1, 2])
    isNext (step s) = true ∧ (nextOf (step s)).rxbuf ≠ s.rxbuf ∧ (nextOf (step s)).chunksDone ≠ s.chunksDone ∧
    (nextOf (step s)).resp ≠ s.resp := by decide
theorem test_hyps_ChunksDoneCountsReplies_acceptance :
    let s := { hostTurn (.issue 0#64) .idle with chunksDone := 3#16 }
    isNext (step s) = true ∧ (nextOf (step s)).phase ≠ .idle ∧ (nextOf (step s)).chunksDone ≠ s.chunksDone := by decide
/-- An exact reply on the TRANSPORT's turn, listed or not, counted though its status byte is wrong; and a reset. -/
theorem test_hyps_ChunksDoneCountsReplies_each :
    let s := awaiting (.write (direct 1 2 0)) (.bytes [0x7F, 0, 0, 0, 0])
    let u := { s with turns := [] }
    transportTurn s ∧ transportTurn u ∧ s.transport.onRecv s.sReg.toNat = some (.bytes [0x7F, 0, 0, 0, 0], .free [] []) ∧ s.sReg.toNat = 5 ∧
    (nextOf (step s)).chunksDone = 1#16 ∧ (nextOf (step u)).chunksDone = 1#16 ∧
    resetTurn { s with turns := [.reset], chunksDone := 1#16 } := by decide
theorem test_hyps_CurLatchedOnlyAtAcceptance :
    let s := hostTurn (.issue 0x0000000042050000#64) .idle
    isNext (step s) = true ∧ (nextOf (step s)).cur ≠ s.cur := by decide
theorem test_hyps_FailureLeavesOutputs :
    let s := awaiting (.write (direct 1 2 0)) .err
    isNext (step s) = true ∧ s.phase ≠ .failed ∧ (nextOf (step s)).phase = .failed := by decide
theorem test_hyps_OutputPortsOnlyAppend :
    let s := { offering (.write (direct 1 2 0)) with transport := .free [.err] [] }
    isNext (step s) = true ∧ (nextOf (step s)).wire ≠ s.wire ∧ ¬ resetTurn s := by decide
/-- The records of each entry, in the layout of R263 (60_exceptions.md): a masked address and segment 0, a failed send, a long reply and
a wrong status byte (V-S9 of 95_test_vectors.md). -/
theorem test_records_emitted :
    let s := hostTurn (.issue 0x0000000042850000#64) .idle
    let u := { offering (.write (direct 1 2 0)) with turns := [.transport], transport := .free [.err] [] }
    let v := awaiting (.write (direct 1 2 0)) (.bytes [0xFF, 0, 0, 0, 0, 0])
    let w := awaiting (.write (direct 1 2 0)) (.bytes [0x01, 0, 0, 0, 0])
    recordsEmitted s (nextOf (step s)) = [0x0100850000#40, 0x0200000005#40] ∧
    recordsEmitted u (nextOf (step u)) = [0x0300020000#40] ∧ recordsEmitted v (nextOf (step v)) = [0x0400020000#40] ∧
    recordsEmitted w (nextOf (step w)) = [0x0500010000#40] ∧
    (nextOf (step s)).events.map DiagEvent.record = [0x0100850000#40, 0x0200000005#40] := by decide
theorem test_hyps_HostWritesTxbuf :
    (7#16).toNat < base.params.bufSize ∧ base.params.bufSize ≤ (8#16).toNat ∧
    (hostTurn (.writeTx 7 1) .idle).phase = .idle ∧ (hostTurn (.writeTx 7 1) .sent).phase = .sent := by decide
theorem test_hyps_HostReadsRxbuf :
    { hostTurn (.readRx 7) .sent with rxbuf := [(7, 0x5A#8)] }.rxbuf.read (7#16).toNat = some 0x5A#8 ∧
    (hostTurn (.readRx 7) .sent).rxbuf.read (7#16).toNat = none ∧ (7#16).toNat < base.params.bufSize ∧
    base.params.bufSize ≤ (8#16).toNat := by decide
theorem test_hyps_HostReadsStatusAndResp :
    (hostTurn .readStatus .failed).host.program = [.readStatus] ∧ (hostTurn .readResp .sent).host.program = [.readResp] := by decide

/-- The invariant holds, in a transaction too, and a step goes on from there. -/
theorem test_hyps_StepKeepsInvariant_StepStopsOnlyForMissingBytes :
    inv (awaiting (.burstRead (direct 1 0 2)) (.bytes [0, 0, 0, 0, 1, 2])) ∧
    isNext (step (awaiting (.burstRead (direct 1 0 2)) (.bytes [0, 0, 0, 0, 1, 2]))) = true :=
  ⟨⟨by decide, by decide, by decide, by decide, by decide, by decide, by decide, by decide⟩, by decide⟩

/-- The invariant holds where a step stops: a HOST read of no value, a HOST index out of range, a payload byte with no value. -/
theorem test_hyps_StepStopsOnlyForMissingBytes_each :
    faultOf (step (hostTurn (.readRx 7) .idle)) = some .hostNoValue ∧
    faultOf (step (hostTurn (.writeTx 8 1) .idle)) = some (.hostAccessError .txbuf) ∧
    faultOf (step (hostTurn (.readRx 8) .idle)) = some (.hostAccessError .rxbuf) ∧
    faultOf (step { hostTurn (.issue 0x0000000100000002#64) .idle with txbuf := [] }) = some (.framerNoValue .txbuf) ∧
    inv { hostTurn (.issue 0x0000000100000002#64) .idle with txbuf := [] } :=
  ⟨by decide, by decide, by decide, by decide, by decide, by decide, by decide, by decide, by decide, by decide, by decide, by decide⟩
theorem test_hyps_DiagNeverInfluencesAStep :
    hideDiag base = hideDiag { base with diag := 1#1, resp := 8#64, events := [.addrMasked 0x85] } ∧
    base ≠ { base with diag := 1#1, resp := 8#64, events := [.addrMasked 0x85] } := by decide
theorem test_hyps_UnusedFieldsAreIgnored :
    sameUsedFields .write ⟨.direct, 1, 5, 0x42, 7⟩ ⟨.direct, 2, 5, 0x42, 8⟩ ∧
    sameUsedFields .read ⟨.multiplexed, 1, 5, 0x42, 7⟩ ⟨.multiplexed, 1, 5, 0x43, 8⟩ ∧
    sameUsedFields .burstWrite ⟨.direct, 1, 5, 0x42, 7⟩ ⟨.direct, 2, 5, 0x43, 7⟩ ∧
    sameUsedFields .burstRead ⟨.direct, 1, 5, 0x42, 7⟩ ⟨.direct, 2, 5, 0x43, 7⟩ := by decide
theorem test_hyps_UnusedFieldsAreIgnored_step :
    let s := awaiting (.read ⟨.direct, 1, 5, 0x42, 7⟩) (.bytes [0xFF, 0, 0, 0, 0x42])
    let u := awaiting (.read ⟨.direct, 2, 5, 0x43, 8⟩) (.bytes [0xFF, 0, 0, 0, 0x42])
    hideUnused s = hideUnused u ∧ s ≠ u ∧ isNext (step s) = true := by decide
theorem test_hyps_WriteTransaction :
    let s := { base with host := ⟨[.issue 0#64], []⟩, transport := .free [.count 5] [.bytes [0xFF, 0, 0, 0, 0]] }
    s.params.legal ∧ s.phase = .idle ∧ s.linkUp = true ∧ s.turns = [] ∧ s.host.program = [.issue 0#64] ∧
    decode 0#64 = .ok (.write (direct 0 0 0)) ∧ s.transport = .free [.count 5] [.bytes [0xFF, 0, 0, 0, 0]] :=
  ⟨by decide, rfl, rfl, rfl, rfl, rfl, rfl⟩
theorem test_hyps_ReadTransaction :
    let s := { base with host := ⟨[.issue 1#64], []⟩, transport := .free [.count 4] [.err] }
    s.params.legal ∧ s.phase = .idle ∧ s.linkUp = true ∧ s.turns = [] ∧ s.host.program = [.issue 1#64] ∧
    decode 1#64 = .ok (.read (direct 0 0 0)) ∧ s.transport = .free [.count 4] [.err] :=
  ⟨by decide, rfl, rfl, rfl, rfl, rfl, rfl⟩
theorem test_hyps_ExchangeCompletes :
    ∃ (s : State) (i : Instr) (d : Word) (replies : List (List Byte)),
      s.params.legal ∧ s.phase = .idle ∧ s.linkUp = true ∧ s.turns = [] ∧ s.txbuf.wf ∧ s.host.program = [.issue d] ∧
      decode d = .ok i ∧ frameLen i.op i.fields.mode i.fields.n = 12 ∧ segmentCount s.params.chunkMax 12 = 2 ∧
      (i.op.isBurst = true → 1 ≤ i.fields.n.toNat ∧ i.fields.n.toNat ≤ s.params.bufSize) ∧
      (i.op = .burstWrite → ∀ j < i.fields.n.toNat, s.txbuf.read j ≠ none) ∧ replies.length = 2 ∧
      (∀ k < 2, (replies.getD k []).length = sizeOfSegment s.params.chunkMax 12 k) ∧
      (∀ k < 2, statusRequired s.params.burstWriteStatus i.op (k + 1 = 2) = true → (replies.getD k []).head? = some 0xFF#8) ∧
      s.transport = .free ((List.range 2).map (fun k => .count (sizeOfSegment s.params.chunkMax 12 k))) (replies.map .bytes) :=
  ⟨{ base with
      host := ⟨[.issue 0x0000000800000002#64], []⟩
      transport := .free [.count 6, .count 6] [.bytes [0, 0, 0, 0, 0, 0], .bytes [0xFF, 0, 0, 0, 0, 0]] },
    .burstWrite (direct 0 0 8), 0x0000000800000002#64, [[0, 0, 0, 0, 0, 0], [0xFF, 0, 0, 0, 0, 0]],
    by decide, rfl, rfl, rfl, by decide, rfl, rfl, rfl, rfl, by decide, by decide, rfl, by decide, by decide, by decide⟩
theorem test_hyps_SingleRegisterRoundTrip :
    ∃ (s : State) (p : Peer),
      s.params.legal ∧ s.phase = .idle ∧ s.linkUp = true ∧ s.turns = [] ∧ s.transport = .peer p ∧ p.faults = [] ∧ p.pos = 0 ∧
      s.host.program =
        [.issue (encode (.write ⟨.direct, 0, 0xFF, 0x42, 0⟩)), .takeResponse, .issue (encode (.read ⟨.direct, 0, 0xFF, 0, 0⟩)),
          .takeResponse] :=
  ⟨{ base with
      transport := .peer (Peer.start [])
      host := ⟨[.issue (encode (.write ⟨.direct, 0, 0xFF, 0x42, 0⟩)), .takeResponse, .issue (encode (.read ⟨.direct, 0, 0xFF, 0, 0⟩)),
          .takeResponse], []⟩ },
    Peer.start [], by decide, rfl, rfl, rfl, rfl, rfl, rfl, rfl⟩
theorem test_hyps_BurstRoundTrip :
    ∃ (s : State) (p : Peer) (n : Half),
      s.params.legal ∧ s.phase = .idle ∧ s.linkUp = true ∧ s.turns = [] ∧ s.transport = .peer p ∧ p.faults = [] ∧ p.pos = 0 ∧
      1 ≤ n.toNat ∧ n.toNat ≤ s.params.bufSize ∧ s.txbuf.wf ∧
      s.txbuf.readRange 0 n.toNat = some [0x11, 0x22, 0x33, 0x44, 0x55, 0x66, 0x77, 0x88] ∧
      s.host.program =
        [.issue (encode (.burstWrite ⟨.multiplexed, 0xFF, 0x7F, 0, n⟩)), .takeResponse,
          .issue (encode (.burstRead ⟨.multiplexed, 0xFF, 0x7F, 0, n⟩)), .takeResponse] :=
  ⟨{ base with
      transport := .peer (Peer.start [])
      host := ⟨[.issue (encode (.burstWrite ⟨.multiplexed, 0xFF, 0x7F, 0, 8⟩)), .takeResponse,
          .issue (encode (.burstRead ⟨.multiplexed, 0xFF, 0x7F, 0, 8⟩)), .takeResponse], []⟩ },
    Peer.start [], 8, by decide, rfl, rfl, rfl, rfl, rfl, rfl, by decide, by decide, by decide, by decide, rfl⟩
end Sys2Proof.Tests
end

/-! What the HOST's ports can do, said once; and the inputs of 00_scope.md R9 and 10_state.md R33 through every operation. -/

namespace Sys2Proof.Machine

theorem exec_eq_accept (i : Instr) (s : State) : exec i s = accept i.op i.fields s := by
  cases i <;> rfl

/-- The answer to a descriptor that is no command: it waits outside IDLE, and enters FAILED in IDLE. -/
theorem rejectDescriptor_next (e : DecodeError) (s t : State) :
    rejectDescriptor e s = .next t ↔
      (s.phase ≠ .idle ∧ t = s) ∨
      (s.phase = .idle ∧ ∃ sub, ((e = .reservedOp ∧ sub = 1#4) ∨ (e = .reservedBits ∧ sub = 2#4)) ∧
        t = raise .invalidArgument sub 0#8 (clearProgress s)) := by
  unfold rejectDescriptor
  by_cases hp : s.phase = .idle
  · cases e <;> simp [hp, eq_comm]
  · simp [hp, eq_comm]

/-- Accept of a descriptor: the command it encodes is accepted, or it is refused. -/
theorem present_next (d : Word) (s t : State) :
    present d s = .next t ↔
      (∃ i, decode d = .ok i ∧ accept i.op i.fields s = .next t) ∨
      (∃ e, decode d = .error e ∧ rejectDescriptor e s = .next t) := by
  unfold present
  cases decode d <;> simp [exec_eq_accept]

/-- A write of TXBUF that is made: in range, in a state that is not busy. -/
theorem hostWriteTx_next (i : Half) (v : Byte) (s t : State) :
    hostWriteTx i v s = some (.next t) ↔
      i.toNat < s.params.bufSize ∧ s.phase.busy = false ∧ t = { s with txbuf := s.txbuf.write i.toNat v } := by
  unfold hostWriteTx
  by_cases hi : s.params.bufSize ≤ i.toNat
  · simp [hi, show ¬ i.toNat < s.params.bufSize by omega]
  · cases s.phase.busy <;> simp [hi, show i.toNat < s.params.bufSize by omega, eq_comm]

/-- A read of RXBUF that is answered: in range, of a byte that has a value. -/
theorem hostReadRx_next (i : Half) (s t : State) :
    hostReadRx i s = .next t ↔
      i.toNat < s.params.bufSize ∧ ∃ v, s.rxbuf.read i.toNat = some v ∧ t = answerHost (.rxByte v) s := by
  unfold hostReadRx
  by_cases hi : s.params.bufSize ≤ i.toNat
  · simp [hi, show ¬ i.toNat < s.params.bufSize by omega]
  · cases s.rxbuf.read i.toNat <;> simp [hi, show i.toNat < s.params.bufSize by omega, eq_comm]

/-- What an action of the HOST that is taken does, port by port. -/
theorem hostOp_next (o : HostOp) (s t : State) :
    hostOp o s = some (.next t) ↔
      (∃ d, o = .issue d ∧ s.phase = .idle ∧ present d s = .next t) ∨
      (o = .takeResponse ∧ s.phase.done = true ∧ t = respondAccept s) ∨
      (∃ i v, o = .writeTx i v ∧ hostWriteTx i v s = some (.next t)) ∨
      (∃ i, o = .readRx i ∧ hostReadRx i s = .next t) ∨
      (o = .readStatus ∧ t = answerHost (.status (statusWord s)) s) ∨
      (o = .readResp ∧ t = answerHost (.resp s.resp) s) := by
  cases o with
  | issue d => by_cases hp : s.phase = .idle <;> simp [hostOp, hp]
  | takeResponse => cases hd : s.phase.done <;> simp [hostOp, hd, eq_comm (a := t)]
  | writeTx i v => simp [hostOp]
  | readRx i => simp [hostOp]
  | readStatus => simp [hostOp, eq_comm (a := t)]
  | readResp => simp [hostOp, eq_comm (a := t)]

/-- `t` has the parameters and the `link_up` of `s`. -/
def SameInputs (s t : State) : Prop := t.params = s.params ∧ t.linkUp = s.linkUp

theorem SameInputs.trans {s u t : State} (h : SameInputs s u) (h' : SameInputs u t) : SameInputs s t :=
  ⟨h'.1.trans h.1, h'.2.trans h.2⟩

theorem buildSegment_sameInputs (s t : State) (h : buildSegment s = .next t) : SameInputs s t := by
  obtain ⟨bs, -, rfl⟩ := (buildSegment_next s t).mp h
  exact ⟨rfl, rfl⟩

theorem accept_sameInputs (op : Op) (f : Fields) (s t : State) (h : accept op f s = .next t) : SameInputs s t := by
  rcases (accept_next op f s t).mp h with ⟨-, rfl⟩ | ⟨-, e, -, rfl⟩ | ⟨-, -, hb⟩
  · exact ⟨rfl, rfl⟩
  · exact ⟨rfl, rfl⟩
  · exact buildSegment_sameInputs (latch op f (clearProgress s)) t hb

theorem complete_sameInputs (s t : State) (h : complete s = .next t) : SameInputs s t := by
  rcases (complete_next s t).mp h with ⟨-, rfl⟩ | ⟨-, d, -, rfl⟩ | ⟨-, bs, -, rfl⟩ <;> exact ⟨rfl, rfl⟩

theorem continueOrComplete_sameInputs (s t : State) (h : continueOrComplete s = .next t) : SameInputs s t := by
  rcases (continueOrComplete_next s t).mp h with ⟨-, hc⟩ | ⟨-, hb⟩
  · exact complete_sameInputs s t hc
  · exact buildSegment_sameInputs s t hb

theorem acceptSegment_sameInputs (s t : State) (h : acceptSegment s = .next t) : SameInputs s t := by
  obtain ⟨u, hu, ht⟩ := (acceptSegment_next s t).mp h
  have hsu : SameInputs s u := by
    rcases hu with ⟨-, rfl⟩ | ⟨-, r, -, rfl⟩ <;> exact ⟨rfl, rfl⟩
  exact hsu.trans (continueOrComplete_sameInputs u t ((continueOrComplete_next u t).mpr ht))

theorem validate_sameInputs (s t : State) (h : validate s = .next t) : SameInputs s t := by
  rcases (validate_next s t).mp h with ⟨-, ha⟩ | ⟨-, v, -, ⟨-, rfl⟩ | ⟨-, ha⟩⟩
  · exact acceptSegment_sameInputs s t ha
  · exact ⟨rfl, rfl⟩
  · exact acceptSegment_sameInputs s t ha

theorem receive_sameInputs (ans : RecvAnswer) (s t : State) (h : receive ans s = .next t) : SameInputs s t := by
  rcases (receive_next ans s t).mp h with ⟨-, rfl⟩ | ⟨r, -, ⟨-, rfl⟩ | ⟨-, rfl⟩ | ⟨-, hv⟩⟩
  · exact ⟨rfl, rfl⟩
  · exact ⟨rfl, rfl⟩
  · exact ⟨rfl, rfl⟩
  · exact validate_sameInputs (replyReceived r s) t hv

theorem send_sameInputs (ans : SendAnswer) (s : State) : SameInputs s (send ans s) := by
  rcases send_cases ans s with ⟨-, h⟩ | ⟨-, h⟩ <;> rw [h] <;> exact ⟨rfl, rfl⟩

theorem transportStep_sameInputs (s t : State) (h : transportStep s = some (.next t)) : SameInputs s t := by
  rcases (transportStep_next s t).mp h with ⟨-, seg, a, -, -, rfl⟩ | ⟨-, a, -, hr⟩
  · exact send_sameInputs a.1 (offered [seg] a.2 s)
  · exact receive_sameInputs a.1 (offered [] a.2 s) t hr

theorem present_sameInputs (d : Word) (s t : State) (h : present d s = .next t) : SameInputs s t := by
  rcases (present_next d s t).mp h with ⟨i, -, ha⟩ | ⟨e, -, hr⟩
  · exact accept_sameInputs i.op i.fields s t ha
  · rcases (rejectDescriptor_next e s t).mp hr with ⟨-, rfl⟩ | ⟨-, sub, -, rfl⟩ <;> exact ⟨rfl, rfl⟩

theorem hostOp_sameInputs (o : HostOp) (s t : State) (h : hostOp o s = some (.next t)) : SameInputs s t := by
  rcases (hostOp_next o s t).mp h with
    ⟨d, -, -, hd⟩ | ⟨-, -, rfl⟩ | ⟨i, v, -, hw⟩ | ⟨i, -, hr⟩ | ⟨-, rfl⟩ | ⟨-, rfl⟩
  · exact present_sameInputs d s t hd
  · exact ⟨rfl, rfl⟩
  · obtain ⟨-, -, rfl⟩ := (hostWriteTx_next i v s t).mp hw
    exact ⟨rfl, rfl⟩
  · obtain ⟨-, v, -, rfl⟩ := (hostReadRx_next i s t).mp hr
    exact ⟨rfl, rfl⟩
  · exact ⟨rfl, rfl⟩
  · exact ⟨rfl, rfl⟩

/-- The one step that does not keep both inputs is the input event of 10_state.md R33. -/
theorem step_sameInputs_or_link (s t : State) (h : step s = .next t) :
    SameInputs s t ∨ ∃ v ts, s.turns = .link v :: ts ∧ t = { afterTurn s with linkUp := v } := by
  rcases step_next s t h with rfl | ⟨o, rest, -, ho⟩ | ⟨-, rfl⟩ | htr | hlink | ⟨ts, -, rfl⟩
  · exact .inl ⟨rfl, rfl⟩
  · exact .inl (hostOp_sameInputs o (popHost rest (afterTurn s)) t ho)
  · exact .inl ⟨rfl, rfl⟩
  · exact .inl (transportStep_sameInputs (afterTurn s) t htr)
  · exact .inr hlink
  · exact .inl ⟨rfl, rfl⟩

/-- Settles O41: each operation of the step's case analysis keeps both inputs, except the turn that changes `link_up`. -/
theorem parametersAndLinkStay : Obligations.ParametersAndLinkStay := by
  intro s t h
  rcases step_sameInputs_or_link s t h with ⟨hparams, hlink⟩ | ⟨v, ts, hturns, rfl⟩
  · exact ⟨hparams, .inl hlink⟩
  · exact ⟨rfl, .inr (by rw [hturns]; rfl)⟩

end Sys2Proof.Machine

/-! What a step does to the registers and buffers the HOST sees, said once, and what 10_state.md says of each of them. -/

namespace Sys2Proof.Machine

open Sys2Proof.Safety

/-! Whose turn it is. -/

theorem afterTurn_of_nil (s : State) (h : s.turns = []) : afterTurn s = s := by
  cases s
  simp_all [afterTurn]

theorem step_of_noTurn (s : State) (h : s.turns = []) : step s = freeMove (afterTurn s) := by
  simp [step, takeTurn, h, afterTurn_of_nil s h]

theorem step_of_hostTurn (s : State) (ts : List Turn) (h : s.turns = .host :: ts) : step s = hostMove (afterTurn s) := by
  simp [step, takeTurn, afterTurn, h]

theorem step_of_framerTurn (s : State) (ts : List Turn) (h : s.turns = .framer :: ts) :
    step s = framerMove (afterTurn s) := by
  simp [step, takeTurn, afterTurn, h]

theorem step_of_listedTransport (s : State) (ts : List Turn) (h : s.turns = .transport :: ts) :
    step s = transportMove (afterTurn s) := by
  simp [step, takeTurn, afterTurn, h]

theorem step_of_linkTurn (s : State) (v : Bool) (ts : List Turn) (h : s.turns = .link v :: ts) :
    step s = .next { afterTurn s with linkUp := v } := by
  simp [step, takeTurn, afterTurn, h]

theorem step_of_resetTurn (s : State) (h : resetTurn s) : step s = .next (applyReset (afterTurn s)) := by
  obtain ⟨ts, hts⟩ := List.head?_eq_some_iff.mp h
  simp [step, takeTurn, afterTurn, hts]

/-- On the TRANSPORT's turn, listed or not, its answer is the step, unless the FRAMER has one to issue (log 3). -/
theorem step_of_transportTurn (s : State) (o : Answer) (hturn : transportTurn s) (hsent : s.phase ≠ .sent)
    (ho : transportStep (afterTurn s) = some o) : step s = o := by
  rcases hturn with hnil | hhead
  · have hsent' : (afterTurn s).phase ≠ .sent := hsent
    simp [step_of_noTurn s hnil, freeMove, hsent', ho]
  · obtain ⟨ts, hts⟩ := List.head?_eq_some_iff.mp hhead
    simp [step_of_listedTransport s ts hts, transportMove, ho]

/-! The view: the part of the state the statements on RESP, CUR, CHUNKS_DONE, TXBUF and RXBUF speak of. -/

/-- STATE, CUR, DIAG, CHUNKS_DONE, RESP and the two buffers of the HOST, with the actions the HOST has still to do. -/
structure View where
  phase      : Phase
  cur        : Cur
  diag       : BitVec 1
  chunksDone : Half
  resp       : Word
  txbuf      : Mem
  rxbuf      : Mem
  program    : List HostOp

/-- The view of a state. -/
def State.view (s : State) : View :=
  ⟨s.phase, s.cur, s.diag, s.chunksDone, s.resp, s.txbuf, s.rxbuf, s.host.program⟩

/-- What `raise` does to the view. -/
def View.fail (r : Result) (sub : BitVec 4) (v : Byte) (w : View) : View :=
  { w with
    resp  := packResp r w.diag sub (if r = .remoteNack then v else 0#8) 0#8 w.chunksDone
    phase := .failed }

/-- What `finish` does to the view. -/
def View.succeed (rdata : Byte) (w : View) : View :=
  { w with
    resp  := packResp .ok w.diag 0#4 0#8 rdata w.chunksDone
    phase := .validated }

theorem view_raise (r : Result) (sub : BitVec 4) (v : Byte) (s : State) :
    (raise r sub v s).view = s.view.fail r sub v := rfl

theorem view_finish (d : Byte) (s : State) : (finish d s).view = s.view.succeed d := rfl

/-- SUBCODE `sub` is one of those 60_exceptions.md R241-R245 list for the error `r`. -/
abbrev Result.hasSubcode (r : Result) (sub : BitVec 4) : Prop :=
  r ≠ .ok ∧ sub ≠ 0#4 ∧ sub.toNat ≤ lastSubcode r.code

/-- What validating a reply does to the view: `v` is the view with the reply counted (40_transaction.md R150-R153). -/
inductive ReplyEffect (v : View) : View → Prop
  /-- The status byte is not the success marker. -/
  | nack (b : Byte) : ReplyEffect v (v.fail .remoteNack 1#4 b)
  /-- The next segment is offered. -/
  | nextSegment : ReplyEffect v { v with phase := .frameBuilt }
  /-- The commit of a command other than BURST_READ: RDATA comes from a READ alone. -/
  | commit (d : Byte) (hd : d ≠ 0#8 → v.cur.op = .read) : ReplyEffect v (v.succeed d)
  /-- The commit of a BURST_READ: N bytes go to RXBUF. -/
  | commitBurstRead (bs : List Byte) (hop : v.cur.op = .burstRead) (hlen : bs.length = v.cur.n.toNat) :
      ReplyEffect v (View.succeed 0#8 { v with rxbuf := v.rxbuf.writeRange 0 bs })

/-- What a step from `s` does to the view. -/
inductive StepEffect (s : State) : View → Prop
  /-- An agent waits, the HOST reads a port, or `link_up` changes. -/
  | stay (p : List HostOp) : StepEffect s { s.view with program := p }
  | reset (hturn : resetTurn s) : StepEffect s { State.reset.view with program := s.host.program }
  /-- An acceptance whose checks fail (40_transaction.md R142). -/
  | refuse (p : List HostOp) (r : Result) (sub : BitVec 4) (hidle : s.phase = .idle) (hsub : r.hasSubcode sub) :
      StepEffect s (View.fail r sub 0#8 { s.view with program := p, diag := 0#1, chunksDone := 0#16 })
  /-- An acceptance whose checks pass (40_transaction.md R141). -/
  | accept (d : Word) (rest : List HostOp) (i : Instr) (hidle : s.phase = .idle)
      (hprog : s.host.program = .issue d :: rest) (hdec : decode d = .ok i) :
      StepEffect s { s.view with
        program    := rest
        phase      := .frameBuilt
        cur        := latchCur i.op i.fields
        diag       := addrBit7 i.fields
        chunksDone := 0#16 }
  /-- The response handshake (40_transaction.md R154). -/
  | respond (p : List HostOp) (hdone : s.phase.done = true) : StepEffect s { s.view with program := p, phase := .idle }
  /-- HostWriteTx (20_memory.md R61). -/
  | writeTx (i : Half) (v : Byte) (rest : List HostOp) (hprog : s.host.program = .writeTx i v :: rest)
      (hbusy : s.phase.busy = false) (hi : i.toNat < s.params.bufSize) :
      StepEffect s { s.view with program := rest, txbuf := s.txbuf.write i.toNat v }
  | sent (hphase : s.phase = .frameBuilt) : StepEffect s { s.view with phase := .sent }
  | issueReceive (hphase : s.phase = .sent) : StepEffect s { s.view with phase := .awaitingReply }
  /-- A send or a receive that fails before a reply is counted (40_transaction.md R146, R149). -/
  | ioFailure (r : Result) (sub : BitVec 4) (hphase : s.phase = .frameBuilt ∨ s.phase = .awaitingReply)
      (hsub : r.hasSubcode sub) : StepEffect s (s.view.fail r sub 0#8)
  /-- A reply of exactly S bytes (40_transaction.md R149). -/
  | reply (r : List Byte) (a : Transport) (w : View) (hturn : transportTurn s) (hphase : s.phase = .awaitingReply)
      (hrecv : s.transport.onRecv s.sReg.toNat = some (.bytes r, a)) (hlen : r.length = s.sReg.toNat)
      (heff : ReplyEffect { s.view with chunksDone := s.chunksDone + 1#16 } w) : StepEffect s w

theorem view_of_buildSegment (s t : State) (h : buildSegment s = .next t) :
    t.view = { s.view with phase := .frameBuilt } := by
  obtain ⟨bs, -, rfl⟩ := (buildSegment_next s t).mp h
  rfl

theorem complete_effect (s t : State) (h : complete s = .next t) : ReplyEffect s.view t.view := by
  rcases (complete_next s t).mp h with ⟨-, rfl⟩ | ⟨hop, d, -, rfl⟩ | ⟨hop, bs, hbs, rfl⟩
  · rw [view_finish]
    exact .commit 0#8 (fun hd => absurd rfl hd)
  · rw [view_finish]
    exact .commit d (fun _ => hop)
  · rw [view_finish]
    exact .commitBurstRead bs hop (Mem.length_of_readRange _ _ _ _ hbs)

theorem acceptSegment_effect (s t : State) (h : acceptSegment s = .next t) : ReplyEffect s.view t.view := by
  obtain ⟨u, hu, ht⟩ := (acceptSegment_next s t).mp h
  have hview : u.view = s.view := by
    rcases hu with ⟨-, rfl⟩ | ⟨-, r, -, rfl⟩ <;> rfl
  rw [← hview]
  rcases ht with ⟨-, hc⟩ | ⟨-, hb⟩
  · exact complete_effect u t hc
  · rw [view_of_buildSegment u t hb]
    exact .nextSegment

theorem validate_effect (s t : State) (h : validate s = .next t) : ReplyEffect s.view t.view := by
  rcases (validate_next s t).mp h with ⟨-, ha⟩ | ⟨-, v, -, ⟨-, rfl⟩ | ⟨-, ha⟩⟩
  · exact acceptSegment_effect s t ha
  · exact .nack v
  · exact acceptSegment_effect s t ha

theorem transportStep_effect (s t : State) (hturn : transportTurn s)
    (h : transportStep (afterTurn s) = some (.next t)) : StepEffect s t.view := by
  rcases (transportStep_next _ t).mp h with ⟨hp, seg, a, -, -, rfl⟩ | ⟨hp, ⟨ans, a⟩, hrecv, hr⟩
  · rcases send_cases a.1 (offered [seg] a.2 (afterTurn s)) with ⟨-, hs⟩ | ⟨-, hs⟩ <;> rw [hs]
    · exact .sent hp
    · exact .ioFailure .transportError 2#4 (.inl hp) (by decide)
  · rcases (receive_next ans _ t).mp hr with ⟨-, rfl⟩ | ⟨r, rfl, ⟨-, rfl⟩ | ⟨-, rfl⟩ | ⟨hlen, hv⟩⟩
    · exact .ioFailure .transportError 3#4 (.inr hp) (by decide)
    · exact .ioFailure .shortResponse 1#4 (.inr hp) (by decide)
    · exact .ioFailure .shortResponse 2#4 (.inr hp) (by decide)
    · exact .reply r a t.view hturn hp hrecv hlen (validate_effect _ t hv)

theorem precheck_hasSubcode (op : Op) (f : Fields) (s : State) (e : Result × BitVec 4) (h : precheck op f s = some e) :
    e.1.hasSubcode e.2 := by
  rcases precheck_some op f s e h with rfl | rfl | rfl <;> decide

theorem present_effect (s t : State) (d : Word) (rest : List HostOp) (hprog : s.host.program = .issue d :: rest)
    (hidle : s.phase = .idle) (h : present d (popHost rest (afterTurn s)) = .next t) : StepEffect s t.view := by
  rcases (present_next d _ t).mp h with ⟨i, hdec, ha⟩ | ⟨e, -, he⟩
  · rcases (accept_next i.op i.fields _ t).mp ha with ⟨hp, -⟩ | ⟨-, e, hc, rfl⟩ | ⟨-, -, hb⟩
    · exact absurd hidle hp
    · rw [view_raise]
      exact .refuse rest e.1 e.2 hidle (precheck_hasSubcode _ _ _ e hc)
    · rw [view_of_buildSegment _ t hb]
      exact .accept d rest i hidle hprog hdec
  · rcases (rejectDescriptor_next e _ t).mp he with ⟨hp, -⟩ | ⟨-, sub, hsub, rfl⟩
    · exact absurd hidle hp
    · have hcode : Result.invalidArgument.hasSubcode sub := by
        rcases hsub with ⟨-, rfl⟩ | ⟨-, rfl⟩ <;> decide
      exact .refuse rest .invalidArgument sub hidle hcode

theorem hostOp_effect (s t : State) (o : HostOp) (rest : List HostOp) (hprog : s.host.program = o :: rest)
    (h : hostOp o (popHost rest (afterTurn s)) = some (.next t)) : StepEffect s t.view := by
  rcases (hostOp_next o _ t).mp h with
    ⟨d, rfl, hidle, hd⟩ | ⟨-, hdone, rfl⟩ | ⟨i, v, rfl, hw⟩ | ⟨i, -, hr⟩ | ⟨-, rfl⟩ | ⟨-, rfl⟩
  · exact present_effect s t d rest hprog hidle hd
  · exact .respond rest hdone
  · obtain ⟨hi, hbusy, rfl⟩ := (hostWriteTx_next i v _ t).mp hw
    exact .writeTx i v rest hprog hbusy hi
  · obtain ⟨-, v, -, rfl⟩ := (hostReadRx_next i _ t).mp hr
    exact .stay rest
  · exact .stay rest
  · exact .stay rest

theorem hostMove_effect (s t : State) (h : hostMove (afterTurn s) = .next t) : StepEffect s t.view := by
  rcases (hostMove_next _ t).mp h with ⟨rfl, -⟩ | ⟨o, rest, hprog, ho⟩
  · exact .stay s.host.program
  · exact hostOp_effect s t o rest hprog ho

theorem framerMove_effect (s t : State) (h : framerMove (afterTurn s) = .next t) : StepEffect s t.view := by
  unfold framerMove at h
  split at h
  next hp => exact Host.Outcome.next.inj h ▸ .issueReceive hp
  next => exact Host.Outcome.next.inj h ▸ .stay s.host.program

/-- Every step is one of the effects. The split is on the turn, which `step_next` does not tell: a reply comes on the
TRANSPORT's. -/
theorem step_effect (s t : State) (h : step s = .next t) : StepEffect s t.view := by
  cases hts : s.turns with
  | nil =>
    rw [step_of_noTurn s hts] at h
    unfold freeMove at h
    split at h
    next => exact framerMove_effect s t h
    next =>
      cases htr : transportStep (afterTurn s) with
      | none => exact hostMove_effect s t (by simpa [htr] using h)
      | some o => exact transportStep_effect s t (.inl hts) (by simpa [htr] using h)
  | cons u ts =>
    cases u with
    | host => exact hostMove_effect s t (step_of_hostTurn s ts hts ▸ h)
    | framer => exact framerMove_effect s t (step_of_framerTurn s ts hts ▸ h)
    | transport =>
      rw [step_of_listedTransport s ts hts] at h
      unfold transportMove at h
      cases htr : transportStep (afterTurn s) with
      | none =>
        rw [htr] at h
        exact Host.Outcome.next.inj h ▸ .stay s.host.program
      | some o => exact transportStep_effect s t (.inr (by simp [hts])) (by simpa [htr] using h)
    | link v =>
      rw [step_of_linkTurn s v ts hts] at h
      exact Host.Outcome.next.inj h ▸ .stay s.host.program
    | reset =>
      have hreset : resetTurn s := by simp [resetTurn, hts]
      rw [step_of_resetTurn s hreset] at h
      exact Host.Outcome.next.inj h ▸ .reset hreset

/-! RESP agrees with STATE. -/

/-- `respConsistent`, of a view. -/
def View.RespConsistent (w : View) : Prop :=
  respWordLegal w.resp ∧
    (w.phase = .validated → respResult w.resp = 0#3) ∧ (w.phase = .failed → respResult w.resp ≠ 0#3) ∧
    (w.phase.done = true → respDiag w.resp = w.diag ∧ respChunksDone w.resp = w.chunksDone) ∧
    (w.phase.busy = false → respRdata w.resp ≠ 0#8 → w.cur.op = .read)

theorem respConsistent_iff_view (s : State) : respConsistent s ↔ s.view.RespConsistent := Iff.rfl

theorem respConsistent_reset : respConsistent State.reset := by decide

theorem View.fail_respConsistent (r : Result) (sub : BitVec 4) (v : Byte) (w : View) (h : r.hasSubcode sub) :
    (w.fail r sub v).RespConsistent := by
  obtain ⟨hr, hsub, hle⟩ := h
  refine ⟨respWordLegal_packResp _ _ _ _ _ _ hle (fun h0 => absurd h0 hsub) (fun hn => if_neg hn) (fun _ => rfl),
    nofun, fun _ => ?_, fun _ => ?_, fun _ => ?_⟩
  · cases r <;> simp_all [View.fail, Result.code]
  · simp [View.fail]
  · simp [View.fail]

theorem View.succeed_respConsistent (d : Byte) (w : View) (h : d ≠ 0#8 → w.cur.op = .read) :
    (w.succeed d).RespConsistent := by
  refine ⟨respWordLegal_packResp _ _ _ _ _ _ (by decide) (fun _ => rfl) (fun _ => rfl) (fun h0 => absurd rfl h0),
    fun _ => ?_, nofun, fun _ => ?_, fun _ => ?_⟩
  · simp [View.succeed, Result.code]
  · simp [View.succeed]
  · simpa [View.succeed] using h

/-- In a transaction RESP is the previous response and has to agree with nothing. -/
theorem View.respConsistent_of_busy (w : View) (hlegal : respWordLegal w.resp) (hbusy : w.phase.busy = true) :
    w.RespConsistent := by
  refine ⟨hlegal, fun h => ?_, fun h => ?_, fun h => ?_, fun h => ?_⟩
  · simp [h, Phase.busy] at hbusy
  · simp [h, Phase.busy] at hbusy
  · cases hp : w.phase <;> simp [hp, Phase.busy, Phase.done] at hbusy h
  · simp [h] at hbusy

theorem Phase.busy_of_done (p : Phase) (h : p.done = true) : p.busy = false := by
  cases p <;> simp_all [Phase.done, Phase.busy]

theorem ReplyEffect.respConsistent {v w : View} (h : ReplyEffect v w) (hlegal : respWordLegal v.resp) :
    w.RespConsistent := by
  cases h with
  | nack b => exact View.fail_respConsistent _ _ _ _ (by decide)
  | nextSegment => exact View.respConsistent_of_busy _ hlegal rfl
  | commit d hd => exact View.succeed_respConsistent d v hd
  | commitBurstRead bs hop hlen => exact View.succeed_respConsistent _ _ (fun h0 => absurd rfl h0)

theorem StepEffect.respConsistent {s : State} {w : View} (h : StepEffect s w) (hs : s.view.RespConsistent) :
    w.RespConsistent := by
  have hlegal : respWordLegal s.resp := hs.1
  cases h with
  | stay p => exact hs
  | reset hturn => exact (respConsistent_iff_view State.reset).mp respConsistent_reset
  | refuse p r sub hidle hsub => exact View.fail_respConsistent _ _ _ _ hsub
  | accept d rest i hidle hprog hdec => exact View.respConsistent_of_busy _ hlegal rfl
  | respond p hdone =>
    obtain ⟨-, -, -, -, hrdata⟩ := hs
    exact ⟨hlegal, nofun, nofun, nofun, fun _ => hrdata (Phase.busy_of_done _ hdone)⟩
  | writeTx i v rest hprog hbusy hi => exact hs
  | sent hphase => exact View.respConsistent_of_busy _ hlegal rfl
  | issueReceive hphase => exact View.respConsistent_of_busy _ hlegal rfl
  | ioFailure r sub hphase hsub => exact View.fail_respConsistent _ _ _ _ hsub
  | reply r a w hturn hphase hrecv hlen heff => exact heff.respConsistent hlegal

/-- Settles O49: a step that writes RESP packs a legal word from DIAG and CHUNKS_DONE, and every other step keeps it. -/
theorem respStaysConsistent : Obligations.RespStaysConsistent := by
  intro s t hs h
  exact (step_effect s t h).respConsistent hs

/-! What each register and buffer changes by. -/

theorem ReplyEffect.txbuf_eq {v w : View} (h : ReplyEffect v w) : w.txbuf = v.txbuf := by
  cases h <;> rfl

theorem ReplyEffect.cur_eq {v w : View} (h : ReplyEffect v w) : w.cur = v.cur := by
  cases h <;> rfl

theorem ReplyEffect.chunksDone_eq {v w : View} (h : ReplyEffect v w) : w.chunksDone = v.chunksDone := by
  cases h <;> rfl

/-- A reply writes RESP only as it ends the transaction. -/
theorem ReplyEffect.done_of_resp_ne {v w : View} (h : ReplyEffect v w) (hne : w.resp ≠ v.resp) :
    w.phase.done = true := by
  cases h with
  | nextSegment => exact absurd rfl hne
  | nack | commit | commitBurstRead => rfl

/-- A reply writes RXBUF only as the commit of a BURST_READ, and below N. -/
theorem ReplyEffect.of_rxbuf_ne {v w : View} (h : ReplyEffect v w) (hne : w.rxbuf ≠ v.rxbuf) :
    w.phase = .validated ∧ v.cur.op = .burstRead ∧ ∀ i, v.cur.n.toNat ≤ i → w.rxbuf.read i = v.rxbuf.read i := by
  cases h with
  | nack | nextSegment | commit => exact absurd rfl hne
  | commitBurstRead bs hop hlen =>
    exact ⟨rfl, hop, fun i hi => Mem.read_writeRange_outside _ _ _ _ (.inr (by omega))⟩

theorem StepEffect.of_txbuf_ne {s : State} {w : View} (h : StepEffect s w) (hne : w.txbuf ≠ s.txbuf) :
    resetTurn s ∨ ∃ i v rest, s.host.program = .writeTx i v :: rest ∧ s.phase.busy = false ∧
      i.toNat < s.params.bufSize ∧ w.txbuf = s.txbuf.write i.toNat v ∧ w.program = rest := by
  cases h with
  | reset hturn => exact .inl hturn
  | writeTx i v rest hprog hbusy hi => exact .inr ⟨i, v, rest, hprog, hbusy, hi, rfl, rfl⟩
  | reply r a w hturn hphase hrecv hlen heff => exact absurd heff.txbuf_eq hne
  | stay | refuse | accept | respond | sent | issueReceive | ioFailure => exact absurd rfl hne

theorem StepEffect.of_rxbuf_ne {s : State} {w : View} (h : StepEffect s w) (hne : w.rxbuf ≠ s.rxbuf) :
    resetTurn s ∨ (s.phase = .awaitingReply ∧ w.phase = .validated ∧ s.cur.op = .burstRead ∧
      ∀ i, s.cur.n.toNat ≤ i → w.rxbuf.read i = s.rxbuf.read i) := by
  cases h with
  | reset hturn => exact .inl hturn
  | reply r a w hturn hphase hrecv hlen heff => exact .inr ⟨hphase, heff.of_rxbuf_ne hne⟩
  | stay | refuse | accept | respond | writeTx | sent | issueReceive | ioFailure => exact absurd rfl hne

theorem StepEffect.of_resp_ne {s : State} {w : View} (h : StepEffect s w) (hne : w.resp ≠ s.resp) :
    resetTurn s ∨ s.phase.done = false ∧ w.phase.done = true := by
  cases h with
  | reset hturn => exact .inl hturn
  | refuse p r sub hidle => exact .inr ⟨by rw [hidle]; rfl, rfl⟩
  | ioFailure r sub hphase => exact .inr ⟨by rcases hphase with hp | hp <;> rw [hp] <;> rfl, rfl⟩
  | reply r a w hturn hphase hrecv hlen heff => exact .inr ⟨by rw [hphase]; rfl, heff.done_of_resp_ne hne⟩
  | stay | accept | respond | writeTx | sent | issueReceive => exact absurd rfl hne

theorem StepEffect.of_cur_ne {s : State} {w : View} (h : StepEffect s w) (hne : w.cur ≠ s.cur) :
    resetTurn s ∨ s.phase = .idle ∧ w.phase = .frameBuilt ∧
      ∃ d rest i, s.host.program = .issue d :: rest ∧ decode d = .ok i ∧ w.cur = latchCur i.op i.fields := by
  cases h with
  | reset hturn => exact .inl hturn
  | accept d rest i hidle hprog hdec => exact .inr ⟨hidle, rfl, d, rest, i, hprog, hdec, rfl⟩
  | reply r a w hturn hphase hrecv hlen heff => exact absurd heff.cur_eq hne
  | stay | refuse | respond | writeTx | sent | issueReceive | ioFailure => exact absurd rfl hne

/-- Settles O37: of all the effects only reset and HostWriteTx write TXBUF. -/
theorem txbufWrittenOnlyByHost : Obligations.TxbufWrittenOnlyByHost :=
  fun s t h hne => (step_effect s t h).of_txbuf_ne hne

/-- Settles O38: of all the effects only reset and the commit of a BURST_READ write RXBUF. -/
theorem rxbufWrittenOnlyByCommit : Obligations.RxbufWrittenOnlyByCommit :=
  fun s t h hne => (step_effect s t h).of_rxbuf_ne hne

/-- Settles O39: of all the effects only reset and those that end a transaction write RESP. -/
theorem respWrittenOnlyAtCompletion : Obligations.RespWrittenOnlyAtCompletion :=
  fun s t h hne => (step_effect s t h).of_resp_ne hne

/-- Settles O40: of all the effects only reset and an acceptance that passes write CUR. -/
theorem curLatchedOnlyAtAcceptance : Obligations.CurLatchedOnlyAtAcceptance :=
  fun s t h hne => (step_effect s t h).of_cur_ne hne

/-! CHUNKS_DONE. -/

theorem StepEffect.chunksDone_of_acceptance {s : State} {w : View} (h : StepEffect s w) (hidle : s.phase = .idle)
    (hw : w.phase ≠ .idle) : w.chunksDone = 0#16 := by
  cases h with
  | reset | refuse | accept => rfl
  | stay | writeTx => exact absurd hidle hw
  | respond => exact absurd rfl hw
  | sent hphase | issueReceive hphase | reply _ _ _ _ hphase => simp [hphase] at hidle
  | ioFailure r sub hphase => rcases hphase with hp | hp <;> simp [hp] at hidle

/-- A reply of exactly S bytes is the one thing that moves CHUNKS_DONE from a value but 0. -/
theorem StepEffect.of_chunksDone_ne {s : State} {w : View} (h : StepEffect s w) (hne : w.chunksDone ≠ s.chunksDone) :
    (resetTurn s ∨ s.phase = .idle ∧ w.phase ≠ .idle) ∨
      transportTurn s ∧ s.phase = .awaitingReply ∧
        ∃ r a, s.transport.onRecv s.sReg.toNat = some (.bytes r, a) ∧ r.length = s.sReg.toNat := by
  cases h with
  | reset hturn => exact .inl (.inl hturn)
  | refuse p r sub hidle | accept p r sub hidle => exact .inl (.inr ⟨hidle, nofun⟩)
  | reply r a w hturn hphase hrecv hlen => exact .inr ⟨hturn, hphase, r, a, hrecv, hlen⟩
  | stay | respond | writeTx | sent | issueReceive | ioFailure => exact absurd rfl hne

theorem transportStep_of_onRecv (s : State) (ans : RecvAnswer) (a : Transport) (hphase : s.phase = .awaitingReply)
    (hrecv : s.transport.onRecv s.sReg.toNat = some (ans, a)) :
    transportStep s = some (receive ans (offered [] a s)) := by
  simp [transportStep, transportReceive, hphase, hrecv]

/-- Validation never touches CHUNKS_DONE: the reply is counted before its status byte is looked at. -/
theorem chunksDone_of_receive (r : List Byte) (s t : State) (hlen : r.length = s.sReg.toNat)
    (h : receive (.bytes r) s = .next t) : t.chunksDone = s.chunksDone + 1#16 := by
  rcases (receive_next _ s t).mp h with ⟨hans, -⟩ | ⟨r', hr', ⟨hlt, -⟩ | ⟨hgt, -⟩ | ⟨-, hv⟩⟩
  · nomatch hans
  · cases hr'
    omega
  · cases hr'
    omega
  · cases hr'
    exact (validate_effect _ t hv).chunksDone_eq

/-- Settles O43: the acceptance and the counting of a reply are the only effects that write CHUNKS_DONE. -/
theorem chunksDoneCountsReplies : Obligations.ChunksDoneCountsReplies := by
  intro s t h
  refine ⟨?_, fun r a hturn hphase hrecv hlen => ?_, (step_effect s t h).of_chunksDone_ne⟩
  · rintro (hreset | ⟨hidle, hleft⟩)
    · rw [step_of_resetTurn s hreset] at h
      exact Host.Outcome.next.inj h ▸ rfl
    · exact (step_effect s t h).chunksDone_of_acceptance hidle hleft
  · have hans := transportStep_of_onRecv (afterTurn s) (.bytes r) a hphase hrecv
    rw [step_of_transportTurn s _ hturn (by simp [hphase]) hans] at h
    exact chunksDone_of_receive r (offered [] a (afterTurn s)) t hlen h

/-! The values after reset, and the STATUS port. -/

@[simp] theorem Mem.read_nil (i : Nat) : Mem.read [] i = none := rfl

/-- Settles O34: the table of 10_state.md R41, row by row. -/
theorem resetValues : Obligations.ResetValues :=
  ⟨rfl, rfl, rfl, rfl, rfl, rfl, rfl, rfl, rfl, rfl, rfl, rfl, by decide,
    fun i => ⟨Mem.read_nil i, Mem.read_nil i, Mem.read_nil i, Mem.read_nil i, Mem.read_nil i⟩, rfl⟩

theorem workingCleared_reset : workingCleared State.reset := ⟨rfl, rfl, rfl, rfl, rfl, rfl, rfl, rfl, rfl⟩

/-- Settles O51: the arrays are empty, RESP is the word 0, and the clauses on a transaction ask nothing in IDLE. -/
theorem resetMeetsInvariant : Obligations.ResetMeetsInvariant :=
  have hlegal : State.reset.params.legal := by decide
  have hcanonical : memoriesCanonical State.reset := by decide
  have hbounded : memoriesBounded State.reset := by decide
  ⟨hlegal, hcanonical, hbounded, fun _ => workingCleared_reset, respConsistent_reset, nofun, nofun, nofun⟩

/-- STATUS, field by field (10_state.md R31). -/
theorem statusWord_fields (s : State) :
    (statusWord s).extractLsb' 5 3 = 0#3 ∧ (statusWord s).getLsbD 4 = s.linkUp ∧
      (statusWord s).getLsbD 3 = s.phase.done ∧ (statusWord s).extractLsb' 0 3 = s.phase.code := by
  simp only [statusWord, respValid]
  cases s.phase <;> cases s.linkUp <;> exact ⟨rfl, rfl, rfl, rfl⟩

theorem Phase.done_iff (p : Phase) : p.done = true ↔ p = .validated ∨ p = .failed := by
  cases p <;> simp [Phase.done]

/-- The HOST's turn when its next action is enabled. -/
theorem step_of_hostOp (s : State) (ts : List Turn) (o : HostOp) (rest : List HostOp) (ans : Answer)
    (hturn : s.turns = .host :: ts) (hprog : s.host.program = o :: rest)
    (ho : hostOp o (popHost rest (afterTurn s)) = some ans) : step s = ans := by
  rw [step_of_hostTurn s ts hturn]
  have hprog' : (afterTurn s).host.program = o :: rest := hprog
  simp [hostMove, hprog', ho]

/-- A port that answers at once: the state after the HOST's turn has the answer, and is else as before. -/
theorem answerHost_popHost_afterTurn (s : State) (ts : List Turn) (rest : List HostOp) (a : HostAnswer)
    (hturn : s.turns = .host :: ts) :
    answerHost a (popHost rest (afterTurn s)) = { s with turns := ts, host := ⟨rest, s.host.answers ++ [a]⟩ } := by
  simp [answerHost, popHost, afterTurn, hturn]

/-- Settles O47: both reads are always enabled, and `answerHost` writes nothing of the FRAMER. -/
theorem hostReadsStatusAndResp : Obligations.HostReadsStatusAndResp := by
  intro s rest ts hturn
  constructor
  · intro hprog
    obtain ⟨hreserved, hlink, hvalid, hcode⟩ := statusWord_fields s
    refine ⟨statusWord s, ?_, hreserved, by rw [hlink], by rw [hvalid, Phase.done_iff], ?_⟩
    · rw [← answerHost_popHost_afterTurn s ts rest _ hturn]
      exact step_of_hostOp s ts _ rest _ hturn hprog rfl
    · rw [hcode]
      cases s.phase <;> rfl
  · intro hprog
    rw [← answerHost_popHost_afterTurn s ts rest _ hturn]
    exact step_of_hostOp s ts _ rest _ hturn hprog rfl

end Sys2Proof.Machine

/-! The TXBUF write port and the RXBUF read port of the HOST (20_memory.md R61, R62), and the payload byte with no value (R66). -/

namespace Sys2Proof.Machine

open Sys2Proof.Config Sys2Proof.Safety

/-! The HOST's turn. -/

theorem afterTurn_of_cons (s : State) (u : Turn) (ts : List Turn) (h : s.turns = u :: ts) :
    afterTurn s = { s with turns := ts } := by
  simp [afterTurn, h]

theorem popHost_afterTurn (s : State) (u : Turn) (ts : List Turn) (rest : List HostOp) (h : s.turns = u :: ts) :
    popHost rest (afterTurn s) = { s with turns := ts, host := ⟨rest, s.host.answers⟩ } := by
  rw [afterTurn_of_cons s u ts h]
  rfl

/-- The HOST's turn when its next action is not enabled: the turn is used up and the action keeps its place (20_memory.md R75). -/
theorem step_of_hostOp_none (s : State) (ts : List Turn) (o : HostOp) (rest : List HostOp) (hturn : s.turns = .host :: ts)
    (hprog : s.host.program = o :: rest) (ho : hostOp o (popHost rest (afterTurn s)) = none) :
    step s = .next (afterTurn s) := by
  rw [step_of_hostTurn s ts hturn]
  exact (hostMove_next _ _).mpr (.inl ⟨rfl, .inr ⟨o, rest, hprog, ho⟩⟩)

theorem Phase.busy_iff (p : Phase) : p.busy = true ↔ p = .frameBuilt ∨ p = .sent ∨ p = .awaitingReply := by
  cases p <;> simp [Phase.busy]

theorem Phase.not_busy_iff (p : Phase) : p.busy = false ↔ p = .idle ∨ p = .validated ∨ p = .failed := by
  cases p <;> simp [Phase.busy]

theorem hostWriteTx_waits (i : Half) (v : Byte) (s : State) (hi : i.toNat < s.params.bufSize) (hbusy : s.phase.busy = true) :
    hostWriteTx i v s = none := by
  rw [hostWriteTx, if_neg (by omega), if_pos hbusy]

theorem hostWriteTx_accessError (i : Half) (v : Byte) (s : State) (hi : s.params.bufSize ≤ i.toNat) :
    hostWriteTx i v s = some (.fault (.hostAccessError .txbuf)) := if_pos hi

theorem hostReadRx_noValue (i : Half) (s : State) (hi : i.toNat < s.params.bufSize) (hread : s.rxbuf.read i.toNat = none) :
    hostReadRx i s = .fault .hostNoValue := by
  rw [hostReadRx, if_neg (by omega), hread]

theorem hostReadRx_accessError (i : Half) (s : State) (hi : s.params.bufSize ≤ i.toNat) :
    hostReadRx i s = .fault (.hostAccessError .rxbuf) := if_pos hi

/-- Settles O45: the three answers of the write port, each on the HOST's turn. -/
theorem hostWritesTxbuf : Obligations.HostWritesTxbuf := by
  intro s i v rest ts hturn hprog
  refine ⟨fun hi hphase => ⟨?_, fun j => ?_⟩, fun hi hphase => ?_, fun hi => ?_⟩
  · have hwrite := (hostWriteTx_next i v (popHost rest (afterTurn s)) _).mpr ⟨hi, (Phase.not_busy_iff _).mpr hphase, rfl⟩
    rw [step_of_hostOp s ts _ rest _ hturn hprog hwrite, popHost_afterTurn s _ ts rest hturn]
  · simp only [Mem.read_write, eq_comm]
  · have hwait := hostWriteTx_waits i v (popHost rest (afterTurn s)) hi ((Phase.busy_iff _).mpr hphase)
    rw [step_of_hostOp_none s ts _ rest hturn hprog hwait, afterTurn_of_cons s _ ts hturn]
  · exact step_of_hostOp s ts _ rest _ hturn hprog (hostWriteTx_accessError i v _ hi)

/-- Settles O46: the three answers of the read port, which is always enabled. -/
theorem hostReadsRxbuf : Obligations.HostReadsRxbuf := by
  intro s i rest ts hturn hprog
  have hstep : step s = hostReadRx i (popHost rest (afterTurn s)) := step_of_hostOp s ts _ rest _ hturn hprog rfl
  refine ⟨fun v hi hread => ?_, fun hi hread => hstep.trans (hostReadRx_noValue i _ hi hread),
    fun hi => hstep.trans (hostReadRx_accessError i _ hi)⟩
  rw [hstep, ← answerHost_popHost_afterTurn s ts rest _ hturn]
  exact (hostReadRx_next i _ _).mpr ⟨hi, v, hread, rfl⟩

/-! A payload byte with no value stops the build of the segment it is in. -/

theorem Mem.readRange_eq_none (m : Mem) (i n j : Nat) (hij : i ≤ j) (hj : j < i + n) (hread : m.read j = none) :
    m.readRange i n = none := by
  cases hr : m.readRange i n with
  | none => rfl
  | some bs =>
    have hlen := Mem.length_of_readRange m i n bs hr
    have hbyte : m.read j = bs[j - i]? := by
      simpa [Nat.add_sub_of_le hij] using Mem.read_of_readRange m i n bs hr (j - i) (by omega)
    have hout := List.getElem?_eq_none_iff.mp (hbyte.symm.trans hread)
    omega

theorem headerPart_length_le_sub (s : State) (g n : Nat) : (headerPart s g n).length ≤ s.hReg.toNat - g := by
  simp only [headerPart, List.length_take, List.length_drop]
  omega

/-- The byte at logical position H + j of a BURST_WRITE is TXBUF[j] (30_encoding.md R114). -/
theorem requestBytes_eq_none (s : State) (g n j : Nat) (hop : s.cur.op = .burstWrite) (hlo : g ≤ s.hReg.toNat + j)
    (hhi : s.hReg.toNat + j < g + n) (hread : s.txbuf.read j = none) : requestBytes s g n = none := by
  have hhead := headerPart_length_le_sub s g n
  simp only [requestBytes, bodyBytes, hop]
  rw [Mem.readRange_eq_none s.txbuf _ _ j (by omega) (by omega) hread]
  rfl

theorem buildSegment_fault_of_unwritten (s : State) (j : Nat) (hop : s.cur.op = .burstWrite)
    (hlo : segmentStart s ≤ s.hReg.toNat + j) (hhi : s.hReg.toNat + j < segmentStart s + segmentSize s)
    (hread : s.txbuf.read j = none) : buildSegment s = .fault (.framerNoValue .txbuf) :=
  (buildSegment_fault s _).mpr ⟨requestBytes_eq_none s _ _ j hop hlo hhi hread, rfl⟩

/-! Acceptance: the checks of a descriptor that passes, and where segment 0 stands. -/

theorem precheck_eq_none (op : Op) (f : Fields) (s : State) (hlink : s.linkUp = true)
    (hn : op.isBurst = true → 1 ≤ f.n.toNat ∧ f.n.toNat ≤ s.params.bufSize) : precheck op f s = none := by
  have hzero : ¬ (op.isBurst = true ∧ f.n = 0#16) := fun ⟨hb, h0⟩ => by simp [hb, h0] at hn
  have hcap : ¬ (op.isBurst = true ∧ s.params.bufSize < f.n.toNat) := fun ⟨hb, hlt⟩ => by have := hn hb; omega
  rw [precheck, if_neg hzero, if_neg hcap, if_neg (by simp [hlink])]

theorem accept_of_passed (op : Op) (f : Fields) (s : State) (hidle : s.phase = .idle) (hcheck : precheck op f s = none) :
    accept op f s = buildSegment (latch op f (clearProgress s)) := by
  rw [accept, if_pos hidle, hcheck]

theorem headerLen_le (m : Mode) : headerLen m ≤ 5 := by
  cases m <;> decide

theorem latch_hReg_toNat (op : Op) (f : Fields) (s : State) : (latch op f s).hReg.toNat = headerLen f.mode := by
  have := headerLen_le f.mode
  simp only [latch_hReg, BitVec.toNat_ofNat]
  omega

theorem latch_remReg_toNat (op : Op) (f : Fields) (s : State) (h : frameLen op f.mode f.n < 65536) :
    (latch op f s).remReg.toNat = frameLen op f.mode f.n := by
  simp only [latch_remReg, BitVec.toNat_ofNat]
  omega

theorem segmentStart_latch (op : Op) (f : Fields) (s : State) : segmentStart (latch op f s) = 0 := by
  simp [segmentStart]

/-- Segment 0 of a BURST_WRITE holds the header and TXBUF[0..min(C - h, N)). -/
theorem execBurstWrite_unwritten (f : Fields) (s : State) (j : Nat) (hlegal : s.params.legal) (hidle : s.phase = .idle)
    (hlink : s.linkUp = true) (hn1 : 1 ≤ f.n.toNat) (hn2 : f.n.toNat ≤ s.params.bufSize)
    (hj : j < min (s.params.chunkMax - headerLen f.mode) f.n.toNat) (hread : s.txbuf.read j = none) :
    exec (.burstWrite f) s = .fault (.framerNoValue .txbuf) := by
  obtain ⟨-, -, hbuf⟩ := hlegal
  have hheader := headerLen_le f.mode
  have hframe : frameLen .burstWrite f.mode f.n = headerLen f.mode + f.n.toNat := rfl
  have hrem := latch_remReg_toNat .burstWrite f (clearProgress s) (by omega)
  rw [exec_eq_accept]
  refine (accept_of_passed .burstWrite f s hidle (precheck_eq_none _ f s hlink fun _ => ⟨hn1, hn2⟩)).trans
    (buildSegment_fault_of_unwritten _ j rfl ?_ ?_ hread)
  · simp [segmentStart_latch]
  · simp only [segmentStart_latch, segmentSize, hrem, latch_hReg_toNat, latch_params, clearProgress_params]
    omega

/-! A reply of the exact length: validated, accepted, and the next segment. -/

theorem receive_of_exact_length (r : List Byte) (s : State) (hlen : r.length = s.sReg.toNat) :
    receive (.bytes r) s = validate (replyReceived r s) := by
  simp [receive, hlen]

theorem replyReceived_read_status (r : List Byte) (b : Byte) (s : State) (h : r.head? = some b) :
    (replyReceived r s).rxseg.read statusOffset = some b := by
  obtain ⟨bs, rfl⟩ := List.head?_eq_some_iff.mp h
  simp [Mem.read_writeRange, statusOffset]

theorem validate_of_status_met (s : State)
    (h : statusRequired s.params.burstWriteStatus s.cur.op (s.remReg = s.sReg) = true →
      s.rxseg.read statusOffset = some successMarker) : validate s = acceptSegment s := by
  unfold validate
  split
  next hq => simp [h hq]
  next => rfl

theorem acceptSegment_of_not_burstRead (s : State) (hop : s.cur.op ≠ .burstRead) :
    acceptSegment s = continueOrComplete (advance s) := if_neg hop

theorem continueOrComplete_of_rem (s : State) (h : s.remReg ≠ 0#16) : continueOrComplete s = buildSegment s := if_neg h

theorem advance_remReg_toNat (s : State) (h : s.sReg.toNat ≤ s.remReg.toNat) :
    (advance s).remReg.toNat = s.remReg.toNat - s.sReg.toNat :=
  BitVec.toNat_sub_of_le (BitVec.le_def.mpr h)

/-- Validation of a reply that is not the last, of a command that stages nothing. -/
theorem validate_of_middle_segment (s : State) (hop : s.cur.op ≠ .burstRead) (hmore : s.sReg.toNat < s.remReg.toNat)
    (hmark : statusRequired s.params.burstWriteStatus s.cur.op false = true →
      s.rxseg.read statusOffset = some successMarker) : validate s = buildSegment (advance s) := by
  have hmiddle : s.remReg ≠ s.sReg := fun h => by simp [h] at hmore
  have hrem : (advance s).remReg ≠ 0#16 := fun h => by
    have hleft := advance_remReg_toNat s hmore.le
    rw [h, BitVec.toNat_zero] at hleft
    omega
  calc validate s = acceptSegment s := validate_of_status_met s (by simpa [hmiddle] using hmark)
    _ = continueOrComplete (advance s) := acceptSegment_of_not_burstRead s hop
    _ = buildSegment (advance s) := continueOrComplete_of_rem (advance s) hrem

/-- Every segment but the last has C bytes, and the next one starts right after it (42_burst.md R200). -/
theorem segmentStart_advance (s : State) (hlegal : s.params.legal) (hgeom : transactionGeometry s)
    (hbusy : s.phase.busy = true) (hmore : s.sReg.toNat < s.remReg.toNat) :
    segmentStart (advance s) = segmentStart s + s.sReg.toNat := by
  obtain ⟨-, -, -, -, -, hstart, -, hsize, -⟩ := hgeom hbusy
  have hfull : s.sReg.toNat = s.params.chunkMax := by
    have : segmentSize s = min s.params.chunkMax s.remReg.toNat := rfl
    omega
  have hk : s.kReg.toNat ≤ segmentStart s := Nat.le_mul_of_pos_right _ (by omega)
  have hk1 : (s.kReg + 1#16).toNat = s.kReg.toNat + 1 := BitVec.toNat_add_of_lt (by have := s.tReg.isLt; simp; omega)
  rw [hfull, segmentStart, segmentStart, advance_kReg, advance_params, hk1, Nat.add_mul, Nat.one_mul]

/-- The TRANSPORT's turn in AWAITING_REPLY with a reply of exactly S bytes: the reply is counted and validated. -/
theorem step_of_exact_reply (s : State) (r : List Byte) (a : Transport) (hturn : transportTurn s)
    (hphase : s.phase = .awaitingReply) (hrecv : s.transport.onRecv s.sReg.toNat = some (.bytes r, a))
    (hlen : r.length = s.sReg.toNat) : step s = validate (replyReceived r (offered [] a (afterTurn s))) := by
  rw [step_of_transportTurn s _ hturn (by simp [hphase]) (transportStep_of_onRecv (afterTurn s) (.bytes r) a hphase hrecv)]
  exact receive_of_exact_length r _ hlen

/-- A reply that leaves bytes of a frame other than a BURST_READ's to send, with the marker where one is required: the step
builds the next segment. -/
theorem step_of_middle_reply (s : State) (r : List Byte) (a : Transport) (hturn : transportTurn s)
    (hphase : s.phase = .awaitingReply) (hrecv : s.transport.onRecv s.sReg.toNat = some (.bytes r, a))
    (hlen : r.length = s.sReg.toNat) (hop : s.cur.op ≠ .burstRead) (hmore : s.sReg.toNat < s.remReg.toNat)
    (hmark : statusRequired s.params.burstWriteStatus s.cur.op false = true → r.head? = some successMarker) :
    step s = buildSegment (advance (replyReceived r (offered [] a (afterTurn s)))) :=
  (step_of_exact_reply s r a hturn hphase hrecv hlen).trans
    (validate_of_middle_segment _ hop hmore fun hq => replyReceived_read_status r _ _ (hmark hq))

/-- Settles O16: TXBUF[j] is at logical position H + j, so the segment that covers that position is not built: segment 0 at
acceptance, a later one in the step that takes the reply before it. -/
theorem unwrittenPayloadFaults : Obligations.UnwrittenPayloadFaults := by
  refine ⟨execBurstWrite_unwritten, ?_⟩
  intro s ts r sends recvs j hlegal hgeom hturn htrans hphase hop hlen hmore hmark hlo hhi hread
  have hrecv : s.transport.onRecv s.sReg.toNat = some (.bytes r, .free sends recvs) := by rw [htrans]; rfl
  have hstart := segmentStart_advance s hlegal hgeom (by rw [hphase]; rfl) hmore
  have hsize : segmentSize (advance s) = min s.params.chunkMax (s.remReg.toNat - s.sReg.toNat) := by
    rw [segmentSize, advance_params, advance_remReg_toNat s hmore.le]
  rw [step_of_middle_reply s r _ (.inr (by simp [hturn])) hphase hrecv hlen (by simp [hop]) hmore (by rwa [hop])]
  exact buildSegment_fault_of_unwritten _ j hop (hstart.trans_le hlo) (hhi.trans_eq (congrArg₂ (· + ·) hstart hsize).symm) hread

end Sys2Proof.Machine

/-! The command descriptor, field by field, and the decoder said once: `decode` and `encode` are inverse, and its two refusals. -/

namespace Sys2Proof

open Laws.EncodingFits

theorem Mode.ofBit_bit (m : Mode) : Mode.ofBit m.bit = m := by
  cases m <;> rfl

theorem Mode.bit_ofBit (b : BitVec 1) : (Mode.ofBit b).bit = b := by
  revert b
  decide

/-- The fields read from a descriptor are the ones placed in it: each stands in bits of its own (30_encoding.md R101). -/
theorem fieldsOf_placeFields (op : BitVec 3) (f : Fields) : fieldsOf (placeFields op f) = f := by
  have hbits : (placeFields op f).extractLsb' 3 1 = f.mode.bit ∧ (placeFields op f).extractLsb' 8 8 = f.mux ∧
      (placeFields op f).extractLsb' 16 8 = f.addr ∧ (placeFields op f).extractLsb' 24 8 = f.wdata ∧
      (placeFields op f).extractLsb' 32 16 = f.n := by
    refine ⟨?_, ?_, ?_, ?_, ?_⟩ <;>
    · apply BitVec.eq_of_getLsbD_eq
      intro j hj
      simp only [placeFields, BitVec.getLsbD_extractLsb', BitVec.getLsbD_append]
      interval_cases j <;> simp
  simp only [fieldsOf, hbits, Mode.ofBit_bit]

/-- The eight fields of 30_encoding.md R101 cover a descriptor without a gap. -/
theorem descriptor_eq_append (d : Word) :
    d.extractLsb' 48 16 ++ d.extractLsb' 32 16 ++ d.extractLsb' 24 8 ++ d.extractLsb' 16 8 ++ d.extractLsb' 8 8 ++
      d.extractLsb' 4 4 ++ d.extractLsb' 3 1 ++ d.extractLsb' 0 3 = d := by
  iterate 7 rw [BitVec.extractLsb'_append_extractLsb'_eq_extractLsb' (by rfl)]
  exact BitVec.extractLsb'_eq_self

theorem placeFields_fieldsOf (d : Word) (hlow : d.extractLsb' 4 4 = 0#4) (hhigh : d.extractLsb' 48 16 = 0#16) :
    placeFields (d.extractLsb' 0 3) (fieldsOf d) = d := by
  conv_rhs => rw [← descriptor_eq_append d, hlow, hhigh]
  simp only [placeFields, fieldsOf, Mode.bit_ofBit]

theorem commandOf_eq_some (op : BitVec 3) (f : Fields) (i : Instr) :
    commandOf op f = some i ↔ i.op.code.setWidth 3 = op ∧ i.fields = f := by
  constructor
  · intro h
    unfold commandOf at h
    split_ifs at h with h0 h1 h2 h3 <;> cases h
    · exact ⟨h0.symm, rfl⟩
    · exact ⟨h1.symm, rfl⟩
    · exact ⟨h2.symm, rfl⟩
    · exact ⟨h3.symm, rfl⟩
  · rintro ⟨rfl, rfl⟩
    cases i <;> rfl

theorem commandOf_eq_none (op : BitVec 3) (f : Fields) : commandOf op f = none ↔ 4 ≤ op.toNat := by
  have hcode : 4 ≤ op.toNat ↔ op ≠ 0#3 ∧ op ≠ 1#3 ∧ op ≠ 2#3 ∧ op ≠ 3#3 := by
    revert op
    decide
  rw [hcode]
  unfold commandOf
  split_ifs <;> simp_all

theorem reservedZero_iff (d : Word) :
    (rsvd0Zero d && rsvd1Zero d) = true ↔ d.extractLsb' 4 4 = 0#4 ∧ d.extractLsb' 48 16 = 0#16 := by
  simp [rsvd0Zero, rsvd1Zero]

theorem commandOf_of_lt (op : BitVec 3) (f : Fields) (h : op.toNat < 4) : ∃ i, commandOf op f = some i := by
  rw [← Option.ne_none_iff_exists', ne_eq, commandOf_eq_none]
  omega

/-- What the decoder accepts: a legal OP and no reserved bit; the command is the one of that OP with the fields as they stand. -/
theorem decode_eq_ok (d : Word) (i : Instr) :
    decode d = .ok i ↔
      (i.op.code.setWidth 3 = d.extractLsb' 0 3 ∧ i.fields = fieldsOf d) ∧
        d.extractLsb' 4 4 = 0#4 ∧ d.extractLsb' 48 16 = 0#16 := by
  rw [← commandOf_eq_some, ← reservedZero_iff]
  unfold decode
  cases commandOf (d.extractLsb' 0 3) (fieldsOf d) with
  | none => simp
  | some k => cases rsvd0Zero d && rsvd1Zero d <;> simp

/-- Decoding and encoding are inverse: a descriptor decodes to a command exactly when it is that command's. -/
theorem decode_eq_ok_iff_encode (d : Word) (i : Instr) : decode d = .ok i ↔ encode i = d := by
  rw [decode_eq_ok]
  constructor
  · rintro ⟨⟨hop, hfields⟩, hlow, hhigh⟩
    rw [encode, hop, hfields, placeFields_fieldsOf d hlow hhigh]
  · rintro rfl
    exact ⟨⟨(placeFields_op _ _).symm, (fieldsOf_placeFields _ _).symm⟩, placeFields_rsvd0 _ _, placeFields_rsvd1 _ _⟩

theorem decode_eq_reservedOp (d : Word) (h : 4 ≤ (d.extractLsb' 0 3).toNat) : decode d = .error .reservedOp := by
  rw [decode, (commandOf_eq_none _ _).mpr h]

theorem decode_eq_reservedBits (d : Word) (hop : (d.extractLsb' 0 3).toNat < 4)
    (hbits : d.extractLsb' 4 4 ≠ 0#4 ∨ d.extractLsb' 48 16 ≠ 0#16) : decode d = .error .reservedBits := by
  obtain ⟨i, hi⟩ := commandOf_of_lt _ (fieldsOf d) hop
  rw [decode, hi]
  exact if_neg fun hr => hbits.elim (absurd ((reservedZero_iff d).mp hr).1) (absurd ((reservedZero_iff d).mp hr).2)

/-- Settles O1: `decode` inverts `encode`, whose descriptor holds each field in bits of its own. -/
theorem decodeInvertsEncode : Obligations.DecodeInvertsEncode :=
  fun i => (decode_eq_ok_iff_encode (encode i) i).mpr rfl

/-- Settles O2: the fields that `decode` reads, with the reserved bits 0, are the whole descriptor. -/
theorem encodeInvertsDecode : Obligations.EncodeInvertsDecode :=
  fun d i => (decode_eq_ok_iff_encode d i).mp

end Sys2Proof

/-! The mask and match values of 30_encoding.md R104, and what a descriptor that spells no command ends in. -/

namespace Sys2Proof

open Machine Safety

/-- The command of an operation with the fields given. -/
def Op.command : Op → Fields → Instr
  | .write => .write
  | .read => .read
  | .burstWrite => .burstWrite
  | .burstRead => .burstRead

@[simp] theorem Op.command_op (op : Op) (f : Fields) : (op.command f).op = op := by
  cases op <;> rfl

@[simp] theorem Op.command_fields (op : Op) (f : Fields) : (op.command f).fields = f := by
  cases op <;> rfl

theorem Op.command_of_instr (i : Instr) : i.op.command i.fields = i := by
  cases i <;> rfl

/-- The mask of R104 keeps OP and the two reserved fields as they are. -/
theorem and_mask_fields (d : Word) :
    (d &&& 0xFFFF0000000000F7#64).extractLsb' 0 3 = d.extractLsb' 0 3 ∧
      (d &&& 0xFFFF0000000000F7#64).extractLsb' 4 4 = d.extractLsb' 4 4 ∧
      (d &&& 0xFFFF0000000000F7#64).extractLsb' 48 16 = d.extractLsb' 48 16 := by
  simp only [BitVec.extractLsb'_and]
  exact ⟨BitVec.and_allOnes, BitVec.and_allOnes, BitVec.and_allOnes⟩

/-- The mask of R104 clears MODE and the operand fields. -/
theorem placeFields_and_mask (op : BitVec 3) (f : Fields) : placeFields op f &&& 0xFFFF0000000000F7#64 = op.setWidth 64 := by
  have hmask : 0xFFFF0000000000F7#64 = 0xFFFF#16 ++ 0#16 ++ 0#8 ++ 0#8 ++ 0#8 ++ 0xF#4 ++ 0#1 ++ 7#3 := rfl
  rw [hmask, placeFields]
  iterate 7 rw [BitVec.and_append]
  simp only [BitVec.and_zero, BitVec.zero_and]
  revert op
  decide

/-- R104's mask and match: a descriptor spells a command of operation `op` exactly when its masked value is the code of `op`. -/
theorem decode_command_iff_and_mask (d : Word) (op : Op) :
    (∃ f, decode d = .ok (op.command f)) ↔ d &&& 0xFFFF0000000000F7#64 = op.code.setWidth 64 := by
  have hcode : (op.code.setWidth 3).setWidth 64 = op.code.setWidth 64 ∧
      (op.code.setWidth 64).extractLsb' 0 3 = op.code.setWidth 3 ∧
      (op.code.setWidth 64).extractLsb' 4 4 = 0#4 ∧ (op.code.setWidth 64).extractLsb' 48 16 = 0#16 := by
    cases op <;> decide
  obtain ⟨hwide, hop, hlow, hhigh⟩ := hcode
  constructor
  · rintro ⟨f, hf⟩
    rw [← (decode_eq_ok_iff_encode d _).mp hf, encode, placeFields_and_mask, Op.command_op, hwide]
  · intro h
    obtain ⟨hop', hlow', hhigh'⟩ := and_mask_fields d
    rw [h] at hop' hlow' hhigh'
    refine ⟨fieldsOf d, (decode_eq_ok d _).mpr ⟨⟨?_, Op.command_fields op _⟩, ?_, ?_⟩⟩
    · rw [Op.command_op, ← hop, hop']
    · rw [← hlow', hlow]
    · rw [← hhigh', hhigh]

/-- The fields of a descriptor that decodes are those of R101. -/
theorem fields_of_decode (d : Word) (i : Instr) (h : decode d = .ok i) :
    i.op.code.setWidth 3 = d.extractLsb' 0 3 ∧ i.fields.mode.bit = d.extractLsb' 3 1 ∧ i.fields.mux = d.extractLsb' 8 8 ∧
      i.fields.addr = d.extractLsb' 16 8 ∧ i.fields.wdata = d.extractLsb' 24 8 ∧ i.fields.n = d.extractLsb' 32 16 := by
  obtain ⟨⟨hop, hfields⟩, -, -⟩ := (decode_eq_ok d i).mp h
  rw [hfields]
  exact ⟨hop, Mode.bit_ofBit _, rfl, rfl, rfl, rfl⟩

/-- A masked value of 4 or more: with a legal OP, a reserved bit is set. -/
theorem reserved_of_le_and_mask (d : Word) (hop : (d.extractLsb' 0 3).toNat < 4) (h : 4 ≤ (d &&& 0xFFFF0000000000F7#64).toNat) :
    d.extractLsb' 4 4 ≠ 0#4 ∨ d.extractLsb' 48 16 ≠ 0#16 := by
  by_contra hzero
  rw [not_or, not_not, not_not] at hzero
  obtain ⟨i, hi⟩ := commandOf_of_lt _ (fieldsOf d) hop
  have hdec : decode d = .ok i := (decode_eq_ok d i).mpr ⟨(commandOf_eq_some _ _ i).mp hi, hzero⟩
  rw [← Op.command_of_instr i] at hdec
  rw [(decode_command_iff_and_mask d i.op).mp ⟨_, hdec⟩] at h
  revert h
  cases i.op <;> decide

/-- A descriptor that is no command, presented in IDLE, ends in INVALID_ARGUMENT with nothing sent. -/
theorem refusedWith_of_decode_error (d : Word) (s : State) (e : DecodeError) (sub : BitVec 4) (hidle : s.phase = .idle)
    (hdec : decode d = .error e) (hsub : (e = .reservedOp ∧ sub = 1#4) ∨ (e = .reservedBits ∧ sub = 2#4)) :
    refusedWith d s 1#3 sub :=
  have hreject := (rejectDescriptor_next e s _).mpr (.inr ⟨hidle, sub, hsub, rfl⟩)
  ⟨_, (present_next d s _).mpr (.inr ⟨e, hdec, hreject⟩), rfl, respResult_packResp .., respSubcode_packResp .., rfl, rfl⟩

/-- Settles O3: the mask keeps OP and the reserved bits and nothing else, which are what `decode` accepts and refuses by. -/
theorem decodeByMaskAndMatch : Obligations.DecodeByMaskAndMatch := by
  intro d
  refine ⟨decode_command_iff_and_mask d .write, decode_command_iff_and_mask d .read,
    decode_command_iff_and_mask d .burstWrite, decode_command_iff_and_mask d .burstRead,
    fields_of_decode d, decode_eq_reservedOp d, decode_eq_reservedBits d, fun s hidle h => ?_⟩
  split
  next hop => exact refusedWith_of_decode_error d s _ _ hidle (decode_eq_reservedOp d hop) (.inl ⟨rfl, rfl⟩)
  next hop =>
    have hlegal := Nat.lt_of_not_le hop
    exact refusedWith_of_decode_error d s _ _ hidle (decode_eq_reservedBits d hlegal (reserved_of_le_and_mask d hlegal h))
      (.inr ⟨rfl, rfl⟩)

end Sys2Proof

/-! The worked descriptors of 30_encoding.md R121 and the command lines of R119. -/

namespace Sys2Proof.Machine

/-- Settles O4: each row of R121 by evaluation of the decoder. -/
theorem workedDescriptorsDecode : Obligations.WorkedDescriptorsDecode := ⟨rfl, rfl, rfl, rfl, rfl, rfl⟩

section Line

variable {op : Op} {m : Mode} {xs : List Nat} {c : Fields → Instr} {mux addr data n : Nat}

theorem asmFields_of_le (m : Mode) (hmux : mux ≤ 255) (haddr : addr ≤ 255) (hdata : data ≤ 255) (hn : n ≤ 65535) :
    asmFields m mux addr data n =
      some ⟨m, BitVec.ofNat 8 mux, BitVec.ofNat 8 addr, BitVec.ofNat 8 data, BitVec.ofNat 16 n⟩ := by
  simp [asmFields, byteOperand, lengthOperand, hmux, haddr, hdata, hn]

theorem asmFields_eq_none (m : Mode) (h : 255 < mux ∨ 255 < addr ∨ 255 < data ∨ 65535 < n) :
    asmFields m mux addr data n = none := by
  unfold asmFields
  split
  next hmux haddr hdata hn =>
    simp only [byteOperand, lengthOperand, Option.ite_none_right_eq_some] at hmux haddr hdata hn
    omega
  next => rfl

/-- A line whose operands stand for the fields given and are in range assembles to the descriptor of its command (R119). -/
theorem line_decodes (hline : asmCommand op m xs = (asmFields m mux addr data n).map c) (hmux : mux ≤ 255) (haddr : addr ≤ 255)
    (hdata : data ≤ 255) (hn : n ≤ 65535) :
    ∃ d, assembleCommand op m xs = .word d ∧
      decode d = .ok (c ⟨m, BitVec.ofNat 8 mux, BitVec.ofNat 8 addr, BitVec.ofNat 8 data, BitVec.ofNat 16 n⟩) := by
  rw [asmFields_of_le m hmux haddr hdata hn] at hline
  exact ⟨_, by rw [assembleCommand, hline]; rfl, decodeInvertsEncode _⟩

/-- A line with an operand out of range is an assembly error (R119). -/
theorem line_error (hline : asmCommand op m xs = (asmFields m mux addr data n).map c)
    (h : 255 < mux ∨ 255 < addr ∨ 255 < data ∨ 65535 < n) : assembleCommand op m xs = .error := by
  rw [asmFields_eq_none m h] at hline
  rw [assembleCommand, hline]
  rfl

end Line

/-- Settles O5: each form reads its operands into the fields it names, and 0 into the others. -/
theorem assembledLinesDecode : Obligations.AssembledLinesDecode := by
  intro mux addr data n
  have hzero : 0 ≤ 255 := by decide
  have hzero16 : 0 ≤ 65535 := by decide
  refine ⟨fun hmux haddr hdata hn => ?_, fun haddr => ?_, fun hdata => ?_, fun hmux => ?_, fun hn => ?_⟩
  · exact ⟨line_decodes rfl hzero haddr hdata hzero16, line_decodes rfl hmux haddr hdata hzero16,
      line_decodes rfl hzero haddr hzero hzero16, line_decodes rfl hmux haddr hzero hzero16,
      line_decodes rfl hzero haddr hzero hn, line_decodes rfl hmux haddr hzero hn,
      line_decodes rfl hzero haddr hzero hn, line_decodes rfl hmux haddr hzero hn⟩
  · exact ⟨line_error rfl (.inr (.inl haddr)), line_error rfl (.inr (.inl haddr))⟩
  · exact line_error rfl (.inr (.inr (.inl hdata)))
  · exact ⟨line_error rfl (.inl hmux), line_error rfl (.inl hmux)⟩
  · exact ⟨line_error rfl (.inr (.inr (.inr hn))), line_error rfl (.inr (.inr (.inr hn)))⟩

end Sys2Proof.Machine

/-! The header of a logical frame, byte by byte (30_encoding.md R107-R111). -/

namespace Sys2Proof.Machine

open Sys2Proof.Config

/-- The serializer gives the header registers at the positions before H (30_encoding.md R114). -/
theorem lbyte_latch (op : Op) (f : Fields) (s : State) (g : Nat) (hg : g < headerLen f.mode) :
    lbyte (latch op f s) g = some ((latch op f s).hdr.byte g) := by
  rw [lbyte, latch_hReg_toNat, if_pos hg]

theorem four_le_headerLen (m : Mode) : 4 ≤ headerLen m := by
  cases m <;> decide

/-- Where the fields of 30_encoding.md R110 stand in the header registers: the address byte is the last. -/
theorem header_bytes (c : Cur) (t : Half) (old : Hdr) :
    (header c t old).byte 0 = wireOpcode c.op c.mode ∧ (header c t old).byte 1 = lenHi t ∧ (header c t old).byte 2 = lenLo t ∧
      (header c t old).byte (headerLen c.mode - 1) = addressByte c := by
  obtain ⟨op, mode, mux, addr, w, wdata, n⟩ := c
  cases mode <;> exact ⟨rfl, rfl, rfl, rfl⟩

theorem lbyte_latch_zero (op : Op) (f : Fields) (s : State) : lbyte (latch op f s) 0 = some (wireOpcode op f.mode) := by
  have := four_le_headerLen f.mode
  obtain ⟨hop, -⟩ := header_bytes (latchCur op f) (latch op f s).tReg s.hdr
  exact (lbyte_latch op f s 0 (by omega)).trans (congrArg some hop)

/-- Settles O6: the two forms of the opcode agree case by case, and byte 0 of the header is it. -/
theorem wireOpcodeValues : Obligations.WireOpcodeValues := by
  refine ⟨fun op m => ?_, ⟨rfl, rfl⟩, ⟨rfl, rfl⟩, ⟨rfl, rfl⟩, ⟨rfl, rfl⟩, lbyte_latch_zero⟩
  cases op <;> cases m <;> rfl

/-- Settles O9: four or five header registers, as the mode says. -/
theorem headerInWireOrder : Obligations.HeaderInWireOrder := by
  rintro op ⟨mode, mux, addr, wdata, n⟩ s
  constructor <;>
  · rintro rfl
    exact ⟨rfl, rfl⟩

/-- W over the low seven bits of ADDR, in arithmetic form (30_encoding.md R108). -/
theorem append_low_seven_bits (w : BitVec 1) (a : Byte) :
    w ++ a.extractLsb' 0 7 = (a &&& 0x7F#8) ||| (w.setWidth 8 <<< 7) := by
  apply BitVec.eq_of_getLsbD_eq
  intro j hj
  simp only [BitVec.getLsbD_append, BitVec.getLsbD_extractLsb', BitVec.getLsbD_or, BitVec.getLsbD_and, BitVec.getLsbD_shiftLeft,
    BitVec.getLsbD_setWidth]
  interval_cases j <;> simp

theorem addressByte_latchCur (op : Op) (f : Fields) :
    addressByte (latchCur op f) = (f.addr &&& 0x7F#8) ||| ((accessFlag op).setWidth 8 <<< 7) :=
  append_low_seven_bits (accessFlag op) f.addr

/-- Only the low seven bits of the address are latched (30_encoding.md R106). -/
theorem latchCur_of_low_bits (op : Op) (f : Fields) (a : Byte) (h : a.extractLsb' 0 7 = f.addr.extractLsb' 0 7) :
    latchCur op { f with addr := a } = latchCur op f := by
  simp only [latchCur, h]

/-- Settles O7: the address byte is made of W and the seven bits latched, and stands last in the header. -/
theorem addressByteValue : Obligations.AddressByteValue := by
  intro op f s
  have hlow : (f.addr ||| 0x80#8).extractLsb' 0 7 = f.addr.extractLsb' 0 7 := BitVec.extractLsb'_or.trans BitVec.or_zero
  refine ⟨addressByte_latchCur op f, ?_, by rw [latchCur_of_low_bits op f _ hlow]⟩
  have := four_le_headerLen f.mode
  obtain ⟨-, -, -, haddr⟩ := header_bytes (latchCur op f) (latch op f s).tReg s.hdr
  rw [← addressByte_latchCur op f]
  exact (lbyte_latch op f s _ (by omega)).trans (congrArg some haddr)

/-- The two LEN bytes, most significant first, read back as the length (00_scope.md R10). -/
theorem lenHi_lenLo (t : Half) : (lenHi t).toNat * 256 + (lenLo t).toNat = t.toNat := by
  have := t.isLt
  simp only [lenHi, lenLo, BitVec.extractLsb'_toNat, Nat.shiftRight_eq_div_pow]
  omega

theorem bodyLen_eq (op : Op) (n : Half) : bodyLen op n = if op.isBurst then n.toNat else 1 := by
  cases op <;> rfl

/-- With legal parameters the length of a frame fits 16 bits (30_encoding.md R109). -/
theorem frameLen_lt (op : Op) (f : Fields) (p : Params) (hlegal : p.legal) (hn : op.isBurst = true → f.n.toNat ≤ p.bufSize) :
    frameLen op f.mode f.n < 65536 := by
  obtain ⟨-, -, hbuf⟩ := hlegal
  have hheader := headerLen_le f.mode
  rw [frameLen, bodyLen_eq]
  split
  next hb =>
    have := hn hb
    omega
  next => omega

/-- Settles O8: T is the length of the frame, without wrap, and bytes 1 and 2 of the header are its two halves. -/
theorem lenFieldRoundTrips : Obligations.LenFieldRoundTrips := by
  intro op f s hlegal hn
  have hT : (latch op f s).tReg.toNat = headerLen f.mode + (if op.isBurst then f.n.toNat else 1) := by
    rw [← bodyLen_eq]
    exact latch_remReg_toNat op f s (frameLen_lt op f s.params hlegal hn)
  have := four_le_headerLen f.mode
  obtain ⟨-, hhi, hlo, -⟩ := header_bytes (latchCur op f) (latch op f s).tReg s.hdr
  exact ⟨hT, lenHi (latch op f s).tReg, lenLo (latch op f s).tReg,
    (lbyte_latch op f s 1 (by omega)).trans (congrArg some hhi), (lbyte_latch op f s 2 (by omega)).trans (congrArg some hlo),
    rfl, rfl, (lenHi_lenLo _).trans hT⟩

end Sys2Proof.Machine

/-! The bytes a segment is built of are those of the serializer function (30_encoding.md R114, 40_transaction.md R145). -/

namespace Sys2Proof.Machine

open Sys2Proof.Config

/-- When every position of a range has a byte, and which bytes they are. -/
theorem mapM_range'_eq_some (f : Nat → Option Byte) (i n : Nat) (bs : List Byte) :
    (List.range' i n).mapM f = some bs ↔ bs.length = n ∧ ∀ j < n, f (i + j) = bs[j]? := by
  induction n generalizing i bs with
  | zero => cases bs <;> simp
  | succ n ih =>
    have hcons : (List.range' i (n + 1)).mapM f = some bs ↔
        ∃ b cs, f i = some b ∧ (List.range' (i + 1) n).mapM f = some cs ∧ b :: cs = bs := by
      simp [List.range'_succ, Option.bind_eq_some_iff]
    have hpos (j : Nat) : i + 1 + j = i + (j + 1) := by omega
    rw [hcons]
    constructor
    · rintro ⟨b, cs, hb, hcs, rfl⟩
      obtain ⟨hlen, hread⟩ := (ih (i + 1) cs).mp hcs
      refine ⟨by simp [hlen], fun j hj => ?_⟩
      cases j with
      | zero => exact hb
      | succ j => simpa [hpos] using hread j (by omega)
    · rintro ⟨hlen, hread⟩
      cases bs with
      | nil => simp at hlen
      | cons b cs =>
        refine ⟨b, cs, hread 0 (by omega), (ih (i + 1) cs).mpr ⟨by simpa using hlen, fun j hj => ?_⟩, rfl⟩
        simpa [hpos] using hread (j + 1) (by omega)

/-- A range read is the reads of its bytes, one after the other. -/
theorem Mem.readRange_eq_mapM (m : Mem) (i n : Nat) (hm : m.wf) : m.readRange i n = (List.range' i n).mapM m.read := by
  cases h : m.readRange i n with
  | some bs =>
    exact ((mapM_range'_eq_some m.read i n bs).mpr ⟨Mem.length_of_readRange m i n bs h, Mem.read_of_readRange m i n bs h⟩).symm
  | none =>
    cases hmap : (List.range' i n).mapM m.read with
    | none => rfl
    | some bs =>
      obtain ⟨hlen, hread⟩ := (mapM_range'_eq_some m.read i n bs).mp hmap
      refine absurd h (Mem.readRange_of_read m i n hm fun j hj => ?_)
      rw [hread j hj, ne_eq, List.getElem?_eq_none_iff]
      omega

theorem mapM_range'_const (b : Byte) (i n : Nat) : (List.range' i n).mapM (fun _ => some b) = some (List.replicate n b) :=
  (mapM_range'_eq_some _ i n _).mpr ⟨List.length_replicate, fun j hj => by simp [hj]⟩

/-- The bytes after the header are the serializer's at the positions from H on. -/
theorem bodyBytes_eq_mapM (s : State) (i n : Nat) (htx : s.txbuf.wf) :
    bodyBytes s i n = (List.range' (s.hReg.toNat + i) n).mapM (lbyte s) := by
  have hshift : (List.range' (s.hReg.toNat + i) n).mapM (lbyte s) =
      (List.range' i n).mapM (fun j => lbyte s (s.hReg.toNat + j)) := by
    rw [← List.map_add_range', List.mapM_map]
    rfl
  rw [hshift]
  unfold bodyBytes
  cases hop : s.cur.op
  case burstWrite => simpa [lbyte, hop] using Mem.readRange_eq_mapM s.txbuf i n htx
  all_goals simp [lbyte, hop, mapM_range'_const]

theorem Hdr.byte_eq_toList (h : Hdr) (g : Nat) (hg : g < 5) : some (h.byte g) = h.toList[g]? := by
  interval_cases g <;> rfl

theorem headerPart_length (s : State) (g n : Nat) (hH : s.hReg.toNat ≤ 5) :
    (headerPart s g n).length = min n (s.hReg.toNat - g) := by
  simp only [headerPart, Hdr.toList, List.length_take, List.length_drop, List.length_cons, List.length_nil]
  omega

/-- The header bytes of a segment are the serializer's at the positions before H. -/
theorem headerPart_eq_mapM (s : State) (g n : Nat) (hH : s.hReg.toNat ≤ 5) :
    (List.range' g (headerPart s g n).length).mapM (lbyte s) = some (headerPart s g n) := by
  refine (mapM_range'_eq_some _ _ _ _).mpr ⟨rfl, fun j hj => ?_⟩
  rw [headerPart_length s g n hH] at hj
  have hpos : g + j < s.hReg.toNat := by omega
  rw [lbyte, if_pos hpos, Hdr.byte_eq_toList _ _ (by omega)]
  simp [headerPart, hpos, show j < n by omega]

/-- Settles O10: up to H the bytes are the header's, and where the header ends inside the segment the body begins at H. -/
theorem segmentBytesAreSerializerBytes : Obligations.SegmentBytesAreSerializerBytes := by
  intro s g n hH htx
  have hlen := headerPart_length s g n hH
  have hbody : List.range' (s.hReg.toNat + (g - s.hReg.toNat)) (n - (headerPart s g n).length) =
      List.range' (g + (headerPart s g n).length) (n - (headerPart s g n).length) := by
    by_cases hinside : (headerPart s g n).length = n
    · simp [hinside]
    · congr 1
      omega
  have hsplit : List.range' g n = List.range' g (headerPart s g n).length ++
      List.range' (g + (headerPart s g n).length) (n - (headerPart s g n).length) := by
    rw [List.range'_append_1, Nat.add_sub_of_le (headerPart_length_le s g n)]
  rw [requestBytes, bodyBytes_eq_mapM s _ _ htx, hbody, hsplit, List.mapM_append, headerPart_eq_mapM s g n hH]
  simp [Option.map_eq_bind]

end Sys2Proof.Machine

/-! What address bit 7 may not show in (30_encoding.md R106, 41_single_register.md R183), at acceptance. -/

namespace Sys2Proof.Machine

open Sys2Proof.Safety

/-- A segment is built alike with what `hide` takes out and without it, when neither its bytes nor its registers show it. -/
theorem buildSegment_mapNext (hide : State → State) (s : State)
    (hbytes : requestBytes (hide s) (segmentStart (hide s)) (segmentSize (hide s)) =
      requestBytes s (segmentStart s) (segmentSize s))
    (hbuilt : ∀ bs, segmentBuilt (segmentSize (hide s)) bs (hide s) = hide (segmentBuilt (segmentSize s) bs s)) :
    buildSegment (hide s) = mapNext hide (buildSegment s) := by
  rw [buildSegment, buildSegment, hbytes]
  cases requestBytes s (segmentStart s) (segmentSize s) with
  | none => rfl
  | some bs => exact congrArg Host.Outcome.next (hbuilt bs)

/-- Two commands that pass the same checks and latch the same but for what `hide` takes out are accepted alike but for that. -/
theorem mapNext_accept_congr (hide : State → State) (hbuild : ∀ s, buildSegment (hide s) = mapNext hide (buildSegment s))
    (op : Op) (f g : Fields) (s : State) (hcheck : precheck op f s = precheck op g s)
    (hlatch : ∀ u, hide (latch op f u) = hide (latch op g u)) :
    mapNext hide (accept op f s) = mapNext hide (accept op g s) := by
  by_cases hidle : s.phase = .idle
  · cases hpre : precheck op g s with
    | some e => simp [accept, hidle, hcheck, hpre]
    | none =>
      rw [accept_of_passed op f s hidle (hcheck.trans hpre), accept_of_passed op g s hidle hpre, ← hbuild, hlatch, hbuild]
  · simp [accept, hidle]

theorem segmentBuilt_hideDiag (n : Nat) (bs : List Byte) (s : State) :
    segmentBuilt n bs (hideDiag s) = hideDiag (segmentBuilt n bs s) := by
  simp [segmentBuilt, hideDiag, List.filter_cons, notAddrMasked]

theorem buildSegment_hideDiag (s : State) : buildSegment (hideDiag s) = mapNext hideDiag (buildSegment s) :=
  buildSegment_mapNext hideDiag s rfl fun bs => segmentBuilt_hideDiag (segmentSize s) bs s

/-- What a command latches of its address is its low seven bits, but for DIAG and EV_ADDR_MASKED. -/
theorem hideDiag_latch_of_low_bits (op : Op) (f : Fields) (a : Byte) (s : State)
    (h : a.extractLsb' 0 7 = f.addr.extractLsb' 0 7) :
    hideDiag (latch op { f with addr := a } s) = hideDiag (latch op f s) := by
  have hevent (g : Fields) : (if addrBit7 g = 1#1 then [DiagEvent.addrMasked g.addr] else []).filter notAddrMasked = [] := by
    split <;> rfl
  simp only [hideDiag, latch, latchCur_of_low_bits op f a h, List.filter_append, hevent]

/-- Settles O53: the checks do not read the address, and the latches keep of bit 7 only DIAG and the event. -/
theorem addressBit7ShowsOnlyInDiag : Obligations.AddressBit7ShowsOnlyInDiag := by
  intro f s
  have hlow : (f.addr ^^^ 0x80#8).extractLsb' 0 7 = f.addr.extractLsb' 0 7 := BitVec.extractLsb'_xor.trans BitVec.xor_zero
  have halike (op : Op) : mapNext hideDiag (accept op { f with addr := f.addr ^^^ 0x80#8 } s) = mapNext hideDiag (accept op f s) :=
    mapNext_accept_congr hideDiag buildSegment_hideDiag op _ f s rfl fun u => hideDiag_latch_of_low_bits op f _ u hlow
  exact ⟨halike .write, halike .read, halike .burstWrite, halike .burstRead⟩

end Sys2Proof.Machine

/-! The fields of CUR that an operation does not use (30_encoding.md R105): nothing reads them, at acceptance or later. -/

namespace Sys2Proof.Machine

open Sys2Proof.Config Sys2Proof.Safety

/-! What `hideUnused` leaves as it is. -/

@[simp] theorem hideUnused_params (s : State) : (hideUnused s).params = s.params := rfl
@[simp] theorem hideUnused_phase (s : State) : (hideUnused s).phase = s.phase := rfl
@[simp] theorem hideUnused_op (s : State) : (hideUnused s).cur.op = s.cur.op := rfl
@[simp] theorem hideUnused_remReg (s : State) : (hideUnused s).remReg = s.remReg := rfl
@[simp] theorem hideUnused_sReg (s : State) : (hideUnused s).sReg = s.sReg := rfl
@[simp] theorem hideUnused_tReg (s : State) : (hideUnused s).tReg = s.tReg := rfl
@[simp] theorem hideUnused_rxbuf (s : State) : (hideUnused s).rxbuf = s.rxbuf := rfl
@[simp] theorem hideUnused_stg (s : State) : (hideUnused s).stg = s.stg := rfl
@[simp] theorem hideUnused_txseg (s : State) : (hideUnused s).txseg = s.txseg := rfl
@[simp] theorem hideUnused_rxseg (s : State) : (hideUnused s).rxseg = s.rxseg := rfl
@[simp] theorem hideUnused_host (s : State) : (hideUnused s).host = s.host := rfl
@[simp] theorem hideUnused_transport (s : State) : (hideUnused s).transport = s.transport := rfl
@[simp] theorem hideUnused_turns (s : State) : (hideUnused s).turns = s.turns := rfl

theorem hideUnused_n (s : State) (h : s.cur.op.isBurst = true) : (hideUnused s).cur.n = s.cur.n := if_pos h

theorem hideUnused_idem (s : State) : hideUnused (hideUnused s) = hideUnused s := by
  simp only [hideUnused, State.mk.injEq, Cur.mk.injEq, true_and, and_true]
  refine ⟨?_, ?_, ?_⟩ <;> split <;> rfl

theorem mapNext_hideUnused_next (s : State) : mapNext hideUnused (.next (hideUnused s)) = mapNext hideUnused (.next s) :=
  congrArg Host.Outcome.next (hideUnused_idem s)

@[simp] theorem mapNext_hideUnused_idem (o : Answer) : mapNext hideUnused (mapNext hideUnused o) = mapNext hideUnused o := by
  cases o <;> simp [mapNext, hideUnused_idem]

/-! The operations that keep CUR do the same with the unused fields and without them. -/

theorem requestBytes_hideUnused (s : State) (g n : Nat) : requestBytes (hideUnused s) g n = requestBytes s g n := by
  have hbody (i k : Nat) : bodyBytes (hideUnused s) i k = bodyBytes s i k := by
    unfold bodyBytes
    cases hop : s.cur.op <;> simp [hideUnused, hop]
  simp only [requestBytes, hbody]
  rfl

theorem buildSegment_hideUnused (s : State) : buildSegment (hideUnused s) = mapNext hideUnused (buildSegment s) :=
  buildSegment_mapNext hideUnused s (requestBytes_hideUnused s _ _) fun _ => rfl

theorem complete_hideUnused (s : State) : complete (hideUnused s) = mapNext hideUnused (complete s) := by
  unfold complete
  rw [hideUnused_op, hideUnused_rxseg, hideUnused_tReg, hideUnused_stg]
  cases hop : s.cur.op
  case write | burstWrite => rfl
  case read => cases s.rxseg.read (s.tReg.toNat - 1) <;> rfl
  case burstRead =>
    rw [hideUnused_n s (by rw [hop]; rfl)]
    cases s.stg.readRange 0 s.cur.n.toNat <;> rfl

theorem continueOrComplete_hideUnused (s : State) :
    continueOrComplete (hideUnused s) = mapNext hideUnused (continueOrComplete s) := by
  unfold continueOrComplete
  rw [hideUnused_remReg]
  split
  · exact complete_hideUnused s
  · exact buildSegment_hideUnused s

theorem acceptSegment_hideUnused (s : State) : acceptSegment (hideUnused s) = mapNext hideUnused (acceptSegment s) := by
  unfold acceptSegment
  rw [hideUnused_op, hideUnused_rxseg, hideUnused_sReg]
  split
  · cases s.rxseg.readRange 0 s.sReg.toNat with
    | none => rfl
    | some r => exact continueOrComplete_hideUnused (advance (stageReply r s))
  · exact continueOrComplete_hideUnused (advance s)

theorem validate_hideUnused (s : State) : validate (hideUnused s) = mapNext hideUnused (validate s) := by
  unfold validate
  rw [hideUnused_params, hideUnused_op, hideUnused_rxseg, hideUnused_sReg, hideUnused_remReg]
  split
  · cases s.rxseg.read statusOffset with
    | none => rfl
    | some v =>
      dsimp only
      split
      · rfl
      · exact acceptSegment_hideUnused s
  · exact acceptSegment_hideUnused s

theorem receive_hideUnused (ans : RecvAnswer) (s : State) :
    receive ans (hideUnused s) = mapNext hideUnused (receive ans s) := by
  cases ans with
  | err => rfl
  | bytes r =>
    rw [receive, receive, hideUnused_sReg]
    split_ifs
    · rfl
    · rfl
    · exact validate_hideUnused (replyReceived r s)

theorem send_hideUnused (ans : SendAnswer) (s : State) : send ans (hideUnused s) = hideUnused (send ans s) := by
  cases ans with
  | err => rfl
  | count c =>
    rw [send, send, hideUnused_sReg]
    split <;> rfl

theorem transportStep_hideUnused (s : State) :
    transportStep (hideUnused s) = (transportStep s).map (mapNext hideUnused) := by
  unfold transportStep
  rw [hideUnused_phase]
  cases s.phase
  case frameBuilt =>
    simp only [transportSend, hideUnused_txseg, hideUnused_sReg, hideUnused_transport, hideUnused_params]
    cases s.txseg.readRange 0 s.sReg.toNat with
    | none => rfl
    | some seg =>
      cases hsend : s.transport.onSend s.params.chunkMax seg with
      | none => simp [hsend]
      | some a =>
        simp only [hsend]
        exact congrArg (fun t => some (Host.Outcome.next t)) (send_hideUnused a.1 (offered [seg] a.2 s))
  case awaitingReply =>
    simp only [transportReceive, hideUnused_sReg, hideUnused_transport]
    cases s.transport.onRecv s.sReg.toNat with
    | none => rfl
    | some a => exact congrArg some (receive_hideUnused a.1 (offered [] a.2 s))
  all_goals rfl

/-! Acceptance, and the HOST's actions: alike once the unused fields are taken out of what they answer. -/

theorem rejectDescriptor_hideUnused (e : DecodeError) (s : State) :
    rejectDescriptor e (hideUnused s) = mapNext hideUnused (rejectDescriptor e s) := by
  unfold rejectDescriptor
  rw [hideUnused_phase]
  split
  · cases e <;> rfl
  · rfl

theorem accept_hideUnused (op : Op) (f : Fields) (s : State) :
    mapNext hideUnused (accept op f (hideUnused s)) = mapNext hideUnused (accept op f s) := by
  by_cases hidle : s.phase = .idle
  · cases hpre : precheck op f s with
    | some e =>
      have hpre' : precheck op f (hideUnused s) = some e := hpre
      simp only [accept, hideUnused_phase, hidle, if_true, hpre, hpre']
      exact mapNext_hideUnused_next (raise e.1 e.2 0#8 (clearProgress s))
    | none =>
      rw [accept_of_passed op f (hideUnused s) hidle hpre, accept_of_passed op f s hidle hpre]
      rfl
  · simp [accept, hidle, mapNext, hideUnused_idem]

theorem present_hideUnused (d : Word) (s : State) :
    mapNext hideUnused (present d (hideUnused s)) = mapNext hideUnused (present d s) := by
  unfold present
  cases decode d with
  | ok i => simpa only [exec_eq_accept] using accept_hideUnused i.op i.fields s
  | error e => simp only [rejectDescriptor_hideUnused, mapNext_hideUnused_idem]

theorem hostWriteTx_hideUnused (i : Half) (v : Byte) (s : State) :
    hostWriteTx i v (hideUnused s) = (hostWriteTx i v s).map (mapNext hideUnused) := by
  unfold hostWriteTx
  rw [hideUnused_params, hideUnused_phase]
  split_ifs <;> rfl

theorem hostReadRx_hideUnused (i : Half) (s : State) :
    hostReadRx i (hideUnused s) = mapNext hideUnused (hostReadRx i s) := by
  unfold hostReadRx
  rw [hideUnused_params, hideUnused_rxbuf]
  split_ifs
  · rfl
  · cases s.rxbuf.read i.toNat <;> rfl

theorem hostOp_hideUnused (o : HostOp) (s : State) :
    (hostOp o (hideUnused s)).map (mapNext hideUnused) = (hostOp o s).map (mapNext hideUnused) := by
  cases o with
  | issue d =>
    rw [hostOp, hostOp, hideUnused_phase]
    split
    · exact congrArg some (present_hideUnused d s)
    · rfl
  | takeResponse =>
    rw [hostOp, hostOp, hideUnused_phase]
    split
    · exact congrArg some (mapNext_hideUnused_next (respondAccept s))
    · rfl
  | writeTx i v => simp [hostOp, hostWriteTx_hideUnused, Function.comp_def]
  | readRx i => simp [hostOp, hostReadRx_hideUnused]
  | readStatus => exact congrArg some (mapNext_hideUnused_next (answerHost (.status (statusWord s)) s))
  | readResp => exact congrArg some (mapNext_hideUnused_next (answerHost (.resp s.resp) s))

/-! The turns. -/

theorem mapNext_getD_congr (hide : State → State) {x x' : Option Answer} {y y' : Answer}
    (hx : x.map (mapNext hide) = x'.map (mapNext hide)) (hy : mapNext hide y = mapNext hide y') :
    mapNext hide (x.getD y) = mapNext hide (x'.getD y') := by
  calc mapNext hide (x.getD y) = (x.map (mapNext hide)).getD (mapNext hide y) := (Option.getD_map _ _ _).symm
    _ = (x'.map (mapNext hide)).getD (mapNext hide y') := by rw [hx, hy]
    _ = mapNext hide (x'.getD y') := Option.getD_map _ _ _

theorem hostMove_hideUnused (s : State) : mapNext hideUnused (hostMove (hideUnused s)) = mapNext hideUnused (hostMove s) := by
  unfold hostMove
  rw [hideUnused_host]
  cases s.host.program with
  | nil => exact mapNext_hideUnused_next s
  | cons o rest =>
    exact mapNext_getD_congr hideUnused (hostOp_hideUnused o (popHost rest s)) (mapNext_hideUnused_next s)

theorem framerMove_hideUnused (s : State) :
    mapNext hideUnused (framerMove (hideUnused s)) = mapNext hideUnused (framerMove s) := by
  unfold framerMove
  rw [hideUnused_phase]
  split
  · exact mapNext_hideUnused_next (issueReceive s)
  · exact mapNext_hideUnused_next s

/-- The TRANSPORT's answer, or what stands for it when there is none. -/
theorem transportStep_getD_hideUnused (s : State) {y y' : Answer} (hy : mapNext hideUnused y = mapNext hideUnused y') :
    mapNext hideUnused ((transportStep (hideUnused s)).getD y) = mapNext hideUnused ((transportStep s).getD y') :=
  mapNext_getD_congr hideUnused (by simp [transportStep_hideUnused, Function.comp_def]) hy

theorem freeMove_hideUnused (s : State) : mapNext hideUnused (freeMove (hideUnused s)) = mapNext hideUnused (freeMove s) := by
  unfold freeMove
  rw [hideUnused_phase]
  split
  · exact framerMove_hideUnused s
  · exact transportStep_getD_hideUnused s (hostMove_hideUnused s)

/-- A step does the same whatever CUR's unused fields hold, but for those fields. -/
theorem step_hideUnused (s : State) : mapNext hideUnused (step (hideUnused s)) = mapNext hideUnused (step s) := by
  unfold step takeTurn
  rw [hideUnused_turns]
  cases hts : s.turns with
  | nil => exact freeMove_hideUnused s
  | cons u ts =>
    cases u with
    | host => exact hostMove_hideUnused { s with turns := ts }
    | framer => exact framerMove_hideUnused { s with turns := ts }
    | transport =>
      exact transportStep_getD_hideUnused { s with turns := ts } (mapNext_hideUnused_next { s with turns := ts })
    | link v => exact mapNext_hideUnused_next { s with turns := ts, linkUp := v }
    | reset => rfl

/-! The operands of a command. -/

theorem precheck_congr {op : Op} {f g : Fields} (h : sameUsedFields op f g) (s : State) : precheck op f s = precheck op g s := by
  obtain ⟨-, -, -, -, hn⟩ := h
  unfold precheck
  cases hb : op.isBurst
  · simp
  · rw [hn hb]

theorem frameLen_congr {op : Op} {f g : Fields} (h : sameUsedFields op f g) :
    frameLen op f.mode f.n = frameLen op g.mode g.n := by
  obtain ⟨hmode, -, -, -, hn⟩ := h
  rw [frameLen, frameLen, bodyLen_eq, bodyLen_eq, hmode]
  split
  next hb => rw [hn hb]
  next => rfl

theorem header_congr {op : Op} {f g : Fields} (h : sameUsedFields op f g) (t : Half) (old : Hdr) :
    header (latchCur op f) t old = header (latchCur op g) t old := by
  obtain ⟨mode, mux, addr, wdata, n⟩ := f
  obtain ⟨rfl, rfl, hmux, -, -⟩ := h
  cases hmode : g.mode with
  | direct =>
    simp only [header, latchCur, hmode]
    rfl
  | multiplexed =>
    obtain rfl : mux = g.mux := hmux hmode
    simp only [header, latchCur, hmode]
    rfl

theorem eq_multiplexed_of_ne_direct (m : Mode) (h : m ≠ .direct) : m = .multiplexed := by
  cases m with
  | direct => exact absurd rfl h
  | multiplexed => rfl

theorem hideUnused_latch_cur_congr {op : Op} {f g : Fields} (h : sameUsedFields op f g) (s : State) :
    (hideUnused (latch op f s)).cur = (hideUnused (latch op g s)).cur := by
  obtain ⟨hmode, haddr, hmux, hwdata, hn⟩ := h
  simp only [hideUnused, latch_cur, latchCur, Cur.mk.injEq, hmode, haddr, true_and]
  exact ⟨ite_congr rfl (fun _ => rfl) fun hm => hmux (hmode.trans (eq_multiplexed_of_ne_direct _ hm)),
    ite_congr rfl hwdata fun _ => rfl, ite_congr rfl hn fun _ => rfl⟩

theorem hideUnused_latch_congr {op : Op} {f g : Fields} (h : sameUsedFields op f g) (s : State) :
    hideUnused (latch op f s) = hideUnused (latch op g s) := by
  have hlen := frameLen_congr h
  have hheader := header_congr h
  have hcur := hideUnused_latch_cur_congr h s
  obtain ⟨hmode, haddr, -, -, -⟩ := h
  have hbit : addrBit7 f = addrBit7 g := congrArg (BitVec.extractLsb' 7 1) haddr
  calc hideUnused (latch op f s) = { latch op f s with cur := (hideUnused (latch op f s)).cur } := rfl
    _ = { latch op g s with cur := (hideUnused (latch op g s)).cur } := by
      rw [hcur, latch, latch, hlen, hheader, hbit, hmode, haddr]
    _ = hideUnused (latch op g s) := rfl

/-- Settles O55: at acceptance the operands show in the latches, where only the fields that are used are read; a later step reads of
CUR the operation, and WDATA or N where the operation uses it. -/
theorem unusedFieldsAreIgnored : Obligations.UnusedFieldsAreIgnored := by
  intro s f g
  have halike (op : Op) (h : sameUsedFields op f g) :
      mapNext hideUnused (accept op f s) = mapNext hideUnused (accept op g s) :=
    mapNext_accept_congr hideUnused buildSegment_hideUnused op f g s (precheck_congr h s) (hideUnused_latch_congr h)
  refine ⟨halike .write, halike .read, halike .burstWrite, halike .burstRead, fun s' h => ?_⟩
  rw [← step_hideUnused s, h, step_hideUnused s']

end Sys2Proof.Machine

/-! What the block does in a step, said once on the whole state in the terms of its named updates, and the invariant
(40_transaction.md R145, R151, R155). -/

namespace Sys2Proof.Machine

open Sys2Proof.Config Sys2Proof.Safety

/-- A reply `r` of the exact length is done with: it is in RXSEG and counted, a BURST_READ has staged its data bytes, and REM
and K have moved on (40_transaction.md R149, R151). -/
def replySettled (r : List Byte) (s : State) : State :=
  { s with
    rxseg      := s.rxseg.writeRange 0 r
    chunksDone := s.chunksDone + 1#16
    remReg     := s.remReg - s.sReg
    kReg       := s.kReg + 1#16
    stg        := if s.cur.op = .burstRead then (stageReply r s).stg else s.stg }

/-- AcceptSegment of a reply of the exact length: the bytes it reads from RXSEG are the reply itself. -/
theorem acceptSegment_replyReceived (r : List Byte) (s : State) (hlen : r.length = s.sReg.toNat) :
    acceptSegment (replyReceived r s) = continueOrComplete (replySettled r s) := by
  have hread : (replyReceived r s).rxseg.readRange 0 (replyReceived r s).sReg.toNat = some r := by
    rw [replyReceived_rxseg, replyReceived_sReg, ← hlen]
    exact Mem.readRange_writeRange_self s.rxseg 0 r
  have hcur : (replyReceived r s).cur = s.cur := rfl
  by_cases hop : s.cur.op = .burstRead
  · rw [acceptSegment, hcur, if_pos hop, hread, replySettled, if_pos hop]
    rfl
  · rw [acceptSegment, hcur, if_neg hop, replySettled, if_neg hop]
    rfl

/-- What the block does in a step, from the state `w` in which the agents have done their part. -/
inductive BlockCase (w : State) : State → Prop
  | stay : BlockCase w w
  | reset : BlockCase w (applyReset w)
  | refuse (r : Result) (sub : BitVec 4) (hidle : w.phase = .idle) : BlockCase w (raise r sub 0#8 (clearProgress w))
  | accept (op : Op) (f : Fields) (bs : List Byte) (hcheck : precheck op f w = none)
      (hbytes : requestBytes (latch op f (clearProgress w)) (segmentStart (latch op f (clearProgress w)))
        (segmentSize (latch op f (clearProgress w))) = some bs) :
      BlockCase w (segmentBuilt (segmentSize (latch op f (clearProgress w))) bs (latch op f (clearProgress w)))
  | respond (hdone : w.phase.done = true) : BlockCase w (enterIdle w)
  | writeTx (i : Half) (v : Byte) (hi : i.toNat < w.params.bufSize) (hbusy : w.phase.busy = false) :
      BlockCase w { w with txbuf := w.txbuf.write i.toNat v }
  | sent (hphase : w.phase = .frameBuilt) : BlockCase w { w with phase := .sent }
  | issueReceive (hphase : w.phase = .sent) : BlockCase w (issueReceive w)
  | ioFailure (r : Result) (sub : BitVec 4) (hphase : w.phase = .frameBuilt ∨ w.phase = .awaitingReply) :
      BlockCase w (raise r sub 0#8 w)
  | nack (r : List Byte) (b : Byte) (hphase : w.phase = .awaitingReply) (hlen : r.length = w.sReg.toNat) :
      BlockCase w (raise .remoteNack 1#4 b (replyReceived r w))
  | nextSegment (r bs : List Byte) (hphase : w.phase = .awaitingReply) (hlen : r.length = w.sReg.toNat)
      (hrem : (replySettled r w).remReg ≠ 0#16)
      (hbytes : requestBytes (replySettled r w) (segmentStart (replySettled r w)) (segmentSize (replySettled r w)) = some bs) :
      BlockCase w (segmentBuilt (segmentSize (replySettled r w)) bs (replySettled r w))
  | commit (r : List Byte) (d : Byte) (hphase : w.phase = .awaitingReply) (hlen : r.length = w.sReg.toNat)
      (hrem : (replySettled r w).remReg = 0#16) : BlockCase w (finish d (replySettled r w))
  | commitBurstRead (r bs : List Byte) (hphase : w.phase = .awaitingReply) (hlen : r.length = w.sReg.toNat)
      (hrem : (replySettled r w).remReg = 0#16) (hop : w.cur.op = .burstRead) (hbs : bs.length = w.cur.n.toNat) :
      BlockCase w (finish 0#8 { replySettled r w with rxbuf := w.rxbuf.writeRange 0 bs })

theorem blockCase_of_acceptSegment (r : List Byte) (w t : State) (hphase : w.phase = .awaitingReply)
    (hlen : r.length = w.sReg.toNat) (h : acceptSegment (replyReceived r w) = .next t) : BlockCase w t := by
  rw [acceptSegment_replyReceived r w hlen, continueOrComplete_next] at h
  rcases h with ⟨hrem, hc⟩ | ⟨hrem, hb⟩
  · rcases (complete_next _ t).mp hc with ⟨-, rfl⟩ | ⟨-, d, -, rfl⟩ | ⟨hop, bs, hbs, rfl⟩
    · exact .commit r 0#8 hphase hlen hrem
    · exact .commit r d hphase hlen hrem
    · exact .commitBurstRead r bs hphase hlen hrem hop (Mem.length_of_readRange _ _ _ _ hbs)
  · obtain ⟨bs, hbytes, rfl⟩ := (buildSegment_next _ t).mp hb
    exact .nextSegment r bs hphase hlen hrem hbytes

theorem blockCase_of_receive (ans : RecvAnswer) (w t : State) (hphase : w.phase = .awaitingReply)
    (h : receive ans w = .next t) : BlockCase w t := by
  rcases (receive_next ans w t).mp h with ⟨-, rfl⟩ | ⟨r, -, ⟨-, rfl⟩ | ⟨-, rfl⟩ | ⟨hlen, hv⟩⟩
  · exact .ioFailure _ _ (.inr hphase)
  · exact .ioFailure _ _ (.inr hphase)
  · exact .ioFailure _ _ (.inr hphase)
  · rcases (validate_next _ t).mp hv with ⟨-, ha⟩ | ⟨-, b, -, ⟨-, rfl⟩ | ⟨-, ha⟩⟩
    · exact blockCase_of_acceptSegment r w t hphase hlen ha
    · exact .nack r b hphase hlen
    · exact blockCase_of_acceptSegment r w t hphase hlen ha

theorem blockCase_of_send (ans : SendAnswer) (w : State) (hphase : w.phase = .frameBuilt) : BlockCase w (send ans w) := by
  rcases send_cases ans w with ⟨-, h⟩ | ⟨-, h⟩ <;> rw [h]
  · exact .sent hphase
  · exact .ioFailure _ _ (.inl hphase)

theorem blockCase_of_present (d : Word) (w t : State) (h : present d w = .next t) : BlockCase w t := by
  rcases (present_next d w t).mp h with ⟨i, -, ha⟩ | ⟨e, -, he⟩
  · rcases (accept_next i.op i.fields w t).mp ha with ⟨-, rfl⟩ | ⟨hidle, e, -, rfl⟩ | ⟨-, hcheck, hb⟩
    · exact .stay
    · exact .refuse _ _ hidle
    · obtain ⟨bs, hbytes, rfl⟩ := (buildSegment_next _ t).mp hb
      exact .accept i.op i.fields bs hcheck hbytes
  · rcases (rejectDescriptor_next e w t).mp he with ⟨-, rfl⟩ | ⟨hidle, sub, -, rfl⟩
    · exact .stay
    · exact .refuse _ _ hidle

/-- `w` is `s` but for the input, the agents and what is recorded of them. -/
def SameBlock (s w : State) : Prop :=
  w = { s with linkUp := w.linkUp, host := w.host, transport := w.transport, wire := w.wire, turns := w.turns }

theorem blockCase_of_hostOp (o : HostOp) (w t : State) (h : hostOp o w = some (.next t)) :
    ∃ u, SameBlock w u ∧ BlockCase u t := by
  rcases (hostOp_next o w t).mp h with
    ⟨d, -, -, hd⟩ | ⟨-, hdone, rfl⟩ | ⟨i, v, -, hw⟩ | ⟨i, -, hr⟩ | ⟨-, rfl⟩ | ⟨-, rfl⟩
  · exact ⟨w, rfl, blockCase_of_present d w t hd⟩
  · exact ⟨answerHost (.response w.resp) w, rfl, .respond hdone⟩
  · obtain ⟨hi, hbusy, rfl⟩ := (hostWriteTx_next i v w t).mp hw
    exact ⟨w, rfl, .writeTx i v hi hbusy⟩
  · obtain ⟨-, v, -, rfl⟩ := (hostReadRx_next i w t).mp hr
    exact ⟨_, by rfl, .stay⟩
  · exact ⟨_, by rfl, .stay⟩
  · exact ⟨_, by rfl, .stay⟩

/-- Every step is one of the cases, from a state that is the one before it but for the agents. -/
theorem step_blockCase (s t : State) (h : step s = .next t) : ∃ w, SameBlock s w ∧ BlockCase w t := by
  rcases step_next s t h with rfl | ⟨o, rest, -, ho⟩ | ⟨hphase, rfl⟩ | htr | ⟨v, ts, -, rfl⟩ | ⟨ts, -, rfl⟩
  · exact ⟨_, by rfl, .stay⟩
  · exact blockCase_of_hostOp o (popHost rest (afterTurn s)) t ho
  · exact ⟨afterTurn s, rfl, .issueReceive hphase⟩
  · rcases (transportStep_next _ t).mp htr with ⟨hphase, seg, a, -, -, rfl⟩ | ⟨hphase, a, -, hr⟩
    · exact ⟨offered [seg] a.2 (afterTurn s), rfl, blockCase_of_send a.1 _ hphase⟩
    · exact ⟨offered [] a.2 (afterTurn s), rfl, blockCase_of_receive a.1 _ t hphase hr⟩
  · exact ⟨_, by rfl, .stay⟩
  · exact ⟨afterTurn s, rfl, .reset⟩

/-! The byte arrays. -/

theorem BlockCase.memoriesCanonical {w t : State} (h : BlockCase w t) (hw : memoriesCanonical w) : memoriesCanonical t := by
  obtain ⟨htx, hrx, hstg, htxseg, hrxseg⟩ := hw
  have hsettled (r : List Byte) : (replySettled r w).stg.wf := by
    unfold replySettled
    split
    · exact Mem.writeRange_wf _ _ _ hstg
    · exact hstg
  cases h with
  | stay | refuse | sent | issueReceive | ioFailure => exact ⟨htx, hrx, hstg, htxseg, hrxseg⟩
  | reset => exact ⟨.nil, .nil, .nil, .nil, .nil⟩
  | respond => exact ⟨htx, hrx, .nil, .nil, .nil⟩
  | accept => exact ⟨htx, hrx, hstg, Mem.writeRange_wf _ _ _ htxseg, hrxseg⟩
  | writeTx => exact ⟨Mem.write_wf _ _ _ htx, hrx, hstg, htxseg, hrxseg⟩
  | nack => exact ⟨htx, hrx, hstg, htxseg, Mem.writeRange_wf _ _ _ hrxseg⟩
  | nextSegment r =>
    exact ⟨htx, hrx, hsettled r, Mem.writeRange_wf _ _ _ htxseg, Mem.writeRange_wf _ _ _ hrxseg⟩
  | commit r => exact ⟨htx, hrx, hsettled r, htxseg, Mem.writeRange_wf _ _ _ hrxseg⟩
  | commitBurstRead r =>
    exact ⟨htx, Mem.writeRange_wf _ _ _ hrx, hsettled r, htxseg, Mem.writeRange_wf _ _ _ hrxseg⟩

theorem step_memoriesCanonical (s t : State) (hs : memoriesCanonical s) (h : step s = .next t) : memoriesCanonical t := by
  obtain ⟨w, hw, hwt⟩ := step_blockCase s t h
  exact hwt.memoriesCanonical (by rw [hw]; exact hs)

theorem BlockCase.idleClean {w t : State} (h : BlockCase w t) (hw : idleClean w) : idleClean t := by
  cases h with
  | stay | writeTx => exact hw
  | reset | respond => exact fun _ => ⟨rfl, rfl, rfl, rfl, rfl, rfl, rfl, rfl, rfl⟩
  | refuse | accept | sent | issueReceive | ioFailure | nack | nextSegment | commit | commitBurstRead => exact nofun

theorem step_idleClean (s t : State) (hs : idleClean s) (h : step s = .next t) : idleClean t := by
  obtain ⟨w, hw, hwt⟩ := step_blockCase s t h
  exact hwt.idleClean (by rw [hw]; exact hs)

/-! The geometry of a transaction: at acceptance, and from one segment to the next. -/

/-- The registers of a transaction when its next segment is about to be built: `transactionGeometry`, but for S, which that
segment sets. -/
abbrev frameOpen (s : State) : Prop :=
  s.hReg.toNat = headerLen s.cur.mode ∧ s.tReg.toNat = frameLen s.cur.op s.cur.mode s.cur.n ∧
    s.hdr = header s.cur s.tReg s.hdr ∧ s.cur.w = accessFlag s.cur.op ∧
    (s.cur.op.isBurst = true → 1 ≤ s.cur.n.toNat ∧ s.cur.n.toNat ≤ s.params.bufSize) ∧
    segmentStart s < s.tReg.toNat ∧ s.remReg.toNat = s.tReg.toNat - segmentStart s ∧ s.chunksDone = s.kReg

theorem segmentSize_toNat (s : State) : (BitVec.ofNat 16 (segmentSize s)).toNat = segmentSize s := by
  have hle := segmentSize_le_rem s
  have hlt := s.remReg.isLt
  rw [BitVec.toNat_ofNat]
  omega

theorem transactionGeometry_segmentBuilt (s : State) (bs : List Byte) (h : frameOpen s) :
    transactionGeometry (segmentBuilt (segmentSize s) bs s) := by
  obtain ⟨hH, hT, hhdr, hw, hn, hstart, hrem, hchunks⟩ := h
  exact fun _ => ⟨hH, hT, hhdr, hw, hn, hstart, hrem, segmentSize_toNat s, hchunks⟩

theorem segmentHeld_segmentBuilt (s : State) (bs : List Byte)
    (hbytes : requestBytes s (segmentStart s) (segmentSize s) = some bs) :
    segmentHeld (segmentBuilt (segmentSize s) bs s) := by
  have hlen := length_of_requestBytes s _ _ bs hbytes
  have hbuilt : requestBytes (segmentBuilt (segmentSize s) bs s) (segmentStart s) (segmentSize s) = some bs := hbytes
  have hread : (s.txseg.writeRange 0 bs).readRange 0 (segmentSize s) = some bs := by
    rw [← hlen]
    exact Mem.readRange_writeRange_self s.txseg 0 bs
  intro _
  rw [segmentBuilt_sReg, segmentSize_toNat, segmentBuilt_txseg, hread]
  exact ⟨Option.ne_none_iff_exists'.mpr ⟨bs, hbuilt⟩, hbuilt.symm⟩

theorem header_idem (c : Cur) (t : Half) (old : Hdr) : header c t (header c t old) = header c t old := by
  unfold header
  cases c.mode <;> rfl

/-- What a command that passes the checks before I/O meets (40_transaction.md R142). -/
theorem of_precheck_eq_none (op : Op) (f : Fields) (s : State) (h : precheck op f s = none) :
    (op.isBurst = true → 1 ≤ f.n.toNat ∧ f.n.toNat ≤ s.params.bufSize) ∧ s.linkUp = true := by
  unfold precheck at h
  split_ifs at h with hzero hcap hlink
  refine ⟨fun hb => ⟨?_, ?_⟩, by simpa using hlink⟩
  · have hne : f.n.toNat ≠ 0 := fun h0 => hzero ⟨hb, BitVec.eq_of_toNat_eq h0⟩
    omega
  · by_contra hlt
    exact hcap ⟨hb, by omega⟩

theorem frameOpen_latch (op : Op) (f : Fields) (s : State) (hlegal : s.params.legal) (hcheck : precheck op f s = none) :
    frameOpen (latch op f (clearProgress s)) := by
  obtain ⟨hn, -⟩ := of_precheck_eq_none op f s hcheck
  have hframe := frameLen_lt op f s.params hlegal fun hb => (hn hb).2
  have hT := latch_remReg_toNat op f (clearProgress s) hframe
  have hheader := four_le_headerLen f.mode
  have hlen : frameLen op f.mode f.n = headerLen f.mode + bodyLen op f.n := rfl
  refine ⟨latch_hReg_toNat op f _, hT, (header_idem _ _ _).symm, rfl, hn, ?_, ?_, rfl⟩
  · rw [segmentStart_latch]
    exact hT.symm ▸ (by omega)
  · rw [segmentStart_latch]
    rfl

theorem frameOpen_replySettled (r : List Byte) (s : State) (hlegal : s.params.legal) (hgeom : transactionGeometry s)
    (hbusy : s.phase.busy = true) (hmore : s.sReg.toNat < s.remReg.toNat) : frameOpen (replySettled r s) := by
  have hstart' : segmentStart (replySettled r s) = segmentStart s + s.sReg.toNat := segmentStart_advance s hlegal hgeom hbusy hmore
  have hrem' : (replySettled r s).remReg.toNat = s.remReg.toNat - s.sReg.toNat := advance_remReg_toNat s hmore.le
  obtain ⟨hH, hT, hhdr, hw, hn, hstart, hrem, -, hchunks⟩ := hgeom hbusy
  have htReg : (replySettled r s).tReg = s.tReg := rfl
  refine ⟨hH, hT, hhdr, hw, hn, ?_, ?_, congrArg (· + 1#16) hchunks⟩
  · rw [hstart', htReg]
    omega
  · rw [hstart', hrem', htReg]
    omega

/-- S and REM in a transaction: no segment is larger than what is left of the frame. -/
theorem sReg_le_remReg (s : State) (hgeom : transactionGeometry s) (hbusy : s.phase.busy = true) :
    s.sReg.toNat ≤ s.remReg.toNat := by
  obtain ⟨-, -, -, -, -, -, -, hsize, -⟩ := hgeom hbusy
  exact hsize.trans_le (segmentSize_le_rem s)

/-- REM is not 0 after a segment exactly when that segment did not end the frame. -/
theorem replySettled_remReg_ne_zero (r : List Byte) (s : State) (hle : s.sReg.toNat ≤ s.remReg.toNat) :
    (replySettled r s).remReg ≠ 0#16 ↔ s.sReg.toNat < s.remReg.toNat := by
  have hrem : (replySettled r s).remReg.toNat = s.remReg.toNat - s.sReg.toNat := advance_remReg_toNat s hle
  rw [ne_eq, ← BitVec.toNat_inj, hrem, BitVec.toNat_zero]
  omega

/-- What a BURST_READ has staged after a reply: the bytes from before segment K, then the reply's own data bytes. -/
theorem replySettled_stg_read (r : List Byte) (s : State) (hop : s.cur.op = .burstRead) (i : Nat) :
    (replySettled r s).stg.read i =
      if segmentStart s ≤ i + s.hReg.toNat ∧ i + s.hReg.toNat < segmentStart s + r.length then
        r[i + s.hReg.toNat - segmentStart s]?
      else s.stg.read i := by
  rw [replySettled]
  simp only [hop, if_true, stageReply_stg, Mem.read_writeRange, List.length_drop, List.getElem?_drop]
  by_cases h : segmentStart s ≤ i + s.hReg.toNat ∧ i + s.hReg.toNat < segmentStart s + r.length
  · rw [if_pos h, if_pos (by omega)]
    congr 1
    omega
  · rw [if_neg h, if_neg (by omega)]

theorem replySettled_stg_of_ne (r : List Byte) (s : State) (hop : s.cur.op ≠ .burstRead) : (replySettled r s).stg = s.stg :=
  if_neg hop

/-! The transaction as a whole. -/

/-- What the invariant says of a transaction under way. -/
abbrev transactionHeld (s : State) : Prop := transactionGeometry s ∧ segmentHeld s ∧ repliesStaged s

/-- A state that is not in a transaction has nothing to hold. -/
theorem transactionHeld_of_not_busy (s : State) (h : s.phase.busy = false) : transactionHeld s :=
  have hno (hb : s.phase.busy = true) : False := by simp [h] at hb
  ⟨fun hb => (hno hb).elim, fun hb => (hno hb).elim, fun hb => (hno hb).elim⟩

theorem transactionHeld_accept (op : Op) (f : Fields) (s : State) (bs : List Byte) (hlegal : s.params.legal)
    (hcheck : precheck op f s = none)
    (hbytes : requestBytes (latch op f (clearProgress s)) (segmentStart (latch op f (clearProgress s)))
      (segmentSize (latch op f (clearProgress s))) = some bs) :
    transactionHeld (segmentBuilt (segmentSize (latch op f (clearProgress s))) bs (latch op f (clearProgress s))) := by
  refine ⟨transactionGeometry_segmentBuilt _ bs (frameOpen_latch op f s hlegal hcheck),
    segmentHeld_segmentBuilt _ bs hbytes, ?_⟩
  intro _ _ i hi
  have hstart : segmentStart (latch op f (clearProgress s)) = 0 := segmentStart_latch op f _
  have hi' : i < segmentStart (latch op f (clearProgress s)) - (latch op f (clearProgress s)).hReg.toNat := hi
  omega

theorem transactionHeld_nextSegment (r bs : List Byte) (s : State) (hlegal : s.params.legal) (hs : transactionHeld s)
    (hphase : s.phase = .awaitingReply) (hlen : r.length = s.sReg.toNat) (hrem : (replySettled r s).remReg ≠ 0#16)
    (hbytes : requestBytes (replySettled r s) (segmentStart (replySettled r s)) (segmentSize (replySettled r s)) = some bs) :
    transactionHeld (segmentBuilt (segmentSize (replySettled r s)) bs (replySettled r s)) := by
  obtain ⟨hgeom, -, hstaged⟩ := hs
  have hbusy : s.phase.busy = true := by rw [hphase]; rfl
  have hmore := (replySettled_remReg_ne_zero r s (sReg_le_remReg s hgeom hbusy)).mp hrem
  refine ⟨transactionGeometry_segmentBuilt _ bs (frameOpen_replySettled r s hlegal hgeom hbusy hmore),
    segmentHeld_segmentBuilt _ bs hbytes, fun _ hop i hi => ?_⟩
  have hstart : segmentStart (replySettled r s) = segmentStart s + s.sReg.toNat := segmentStart_advance s hlegal hgeom hbusy hmore
  have hi' : i < segmentStart (replySettled r s) - s.hReg.toNat := hi
  rw [segmentBuilt_stg, replySettled_stg_read r s hop]
  split
  next hin =>
    rw [ne_eq, List.getElem?_eq_none_iff]
    omega
  next hout => exact hstaged hbusy hop i (by omega)

theorem BlockCase.transactionHeld {w t : State} (h : BlockCase w t) (hlegal : w.params.legal) (hw : transactionHeld w) :
    transactionHeld t := by
  cases h with
  | stay => exact hw
  | accept op f bs hcheck hbytes => exact transactionHeld_accept op f w bs hlegal hcheck hbytes
  | sent hphase | issueReceive hphase =>
    obtain ⟨hgeom, hheld, hstaged⟩ := hw
    have hbusy : w.phase.busy = true := by rw [hphase]; rfl
    exact ⟨fun _ => hgeom hbusy, fun _ => hheld hbusy, fun _ => hstaged hbusy⟩
  | nextSegment r bs hphase hlen hrem hbytes => exact transactionHeld_nextSegment r bs w hlegal hw hphase hlen hrem hbytes
  | writeTx i v hi hbusy => exact transactionHeld_of_not_busy _ hbusy
  | reset | refuse | respond | ioFailure | nack | commit | commitBurstRead => exact transactionHeld_of_not_busy _ rfl

/-! The sizes of the byte arrays. -/

/-- The segment in flight, and the reply to it, fit TXSEG and RXSEG (20_memory.md R60). -/
theorem sReg_le_chunkMax (s : State) (hgeom : transactionGeometry s) (hbusy : s.phase.busy = true) :
    s.sReg.toNat ≤ s.params.chunkMax := by
  obtain ⟨-, -, -, -, -, -, -, hsize, -⟩ := hgeom hbusy
  exact hsize.trans_le (segmentSize_le_chunkMax s)

/-- The data bytes of a BURST_READ reply are at offsets below N (40_transaction.md R151). -/
theorem segmentEnd_le_of_burst (s : State) (hgeom : transactionGeometry s) (hbusy : s.phase.busy = true)
    (hop : s.cur.op.isBurst = true) :
    segmentStart s + s.sReg.toNat ≤ s.hReg.toNat + s.cur.n.toNat ∧ s.cur.n.toNat ≤ s.params.bufSize := by
  have hle := sReg_le_remReg s hgeom hbusy
  obtain ⟨hH, hT, -, -, hn, hstart, hrem, -, -⟩ := hgeom hbusy
  rw [frameLen, bodyLen_eq, if_pos hop] at hT
  exact ⟨by omega, (hn hop).2⟩

theorem replySettled_stg_bounded (r : List Byte) (s : State) (hgeom : transactionGeometry s) (hbusy : s.phase.busy = true)
    (hlen : r.length = s.sReg.toNat) (hstg : s.stg.bounded s.params.bufSize) :
    (replySettled r s).stg.bounded s.params.bufSize := by
  by_cases hop : s.cur.op = .burstRead
  · obtain ⟨hend, hn⟩ := segmentEnd_le_of_burst s hgeom hbusy (by rw [hop]; rfl)
    rw [replySettled]
    simp only [hop, if_true, stageReply_stg]
    refine Mem.writeRange_bounded _ _ _ _ hstg ?_
    rw [List.length_drop]
    omega
  · rw [replySettled_stg_of_ne r s hop]
    exact hstg

theorem BlockCase.memoriesBounded {w t : State} (h : BlockCase w t) (hgeom : transactionGeometry w) (hw : memoriesBounded w) :
    memoriesBounded t := by
  obtain ⟨htx, hrx, hstg, htxseg, hrxseg⟩ := hw
  have hrxseg' (r : List Byte) (hphase : w.phase = .awaitingReply) (hlen : r.length = w.sReg.toNat) :
      (w.rxseg.writeRange 0 r).bounded w.params.chunkMax :=
    have hle := sReg_le_chunkMax w hgeom (by rw [hphase]; rfl)
    Mem.writeRange_bounded _ _ _ _ hrxseg (by omega)
  have htxseg' (u : State) (bs : List Byte) (hu : u.params = w.params)
      (hbytes : requestBytes u (segmentStart u) (segmentSize u) = some bs) :
      (w.txseg.writeRange 0 bs).bounded w.params.chunkMax := by
    have hlen := length_of_requestBytes u _ _ bs hbytes
    have hle := segmentSize_le_chunkMax u
    rw [hu] at hle
    exact Mem.writeRange_bounded _ _ _ _ htxseg (by omega)
  have hstg' (r : List Byte) (hphase : w.phase = .awaitingReply) (hlen : r.length = w.sReg.toNat) :
      (replySettled r w).stg.bounded w.params.bufSize :=
    replySettled_stg_bounded r w hgeom (by rw [hphase]; rfl) hlen hstg
  cases h with
  | stay | refuse | sent | issueReceive | ioFailure => exact ⟨htx, hrx, hstg, htxseg, hrxseg⟩
  | reset => exact ⟨nofun, nofun, nofun, nofun, nofun⟩
  | respond => exact ⟨htx, hrx, nofun, nofun, nofun⟩
  | accept op f bs hcheck hbytes => exact ⟨htx, hrx, hstg, htxseg' (latch op f (clearProgress w)) bs rfl hbytes, hrxseg⟩
  | writeTx i v hi hbusy => exact ⟨Mem.writeRange_bounded _ _ _ _ htx hi, hrx, hstg, htxseg, hrxseg⟩
  | nack r b hphase hlen => exact ⟨htx, hrx, hstg, htxseg, hrxseg' r hphase hlen⟩
  | nextSegment r bs hphase hlen hrem hbytes =>
    exact ⟨htx, hrx, hstg' r hphase hlen, htxseg' (replySettled r w) bs rfl hbytes, hrxseg' r hphase hlen⟩
  | commit r d hphase hlen hrem => exact ⟨htx, hrx, hstg' r hphase hlen, htxseg, hrxseg' r hphase hlen⟩
  | commitBurstRead r bs hphase hlen hrem hop hbs =>
    obtain ⟨-, hn⟩ := segmentEnd_le_of_burst w hgeom (by rw [hphase]; rfl) (by rw [hop]; rfl)
    have hfit : 0 + bs.length ≤ w.params.bufSize := by omega
    exact ⟨htx, Mem.writeRange_bounded _ _ _ _ hrx hfit, hstg' r hphase hlen, htxseg, hrxseg' r hphase hlen⟩

/-- Settles O50: legal parameters and RESP are kept by every step, and each case of the block keeps the arrays, the cleared IDLE
and what a transaction holds. -/
theorem stepKeepsInvariant : Obligations.StepKeepsInvariant := by
  intro s t hs h
  obtain ⟨hlegal, hcanonical, hbounded, hidle, hresp, hheld⟩ := hs
  obtain ⟨w, hw, hcase⟩ := step_blockCase s t h
  have hw' : w.params.legal ∧ memoriesBounded w ∧ transactionHeld w := by
    rw [hw]
    exact ⟨hlegal, hbounded, hheld⟩
  obtain ⟨hlegalW, hboundedW, hheldW⟩ := hw'
  refine ⟨?_, step_memoriesCanonical s t hcanonical h, hcase.memoriesBounded hheldW.1 hboundedW, step_idleClean s t hidle h,
    respStaysConsistent s t hresp h, hcase.transactionHeld hlegalW hheldW⟩
  rw [(parametersAndLinkStay s t h).1]
  exact hlegal

end Sys2Proof.Machine

/-! The transitions of STATE, and what a step into FAILED and into IDLE leaves (40_transaction.md R140, R155, R160). -/

namespace Sys2Proof.Machine

open Sys2Proof.Safety

theorem ReplyEffect.phase_cases {v w : View} (h : ReplyEffect v w) :
    w.phase = .failed ∨ w.phase = .frameBuilt ∨ w.phase = .validated := by
  cases h with
  | nack => exact .inl rfl
  | nextSegment => exact .inr (.inl rfl)
  | commit | commitBurstRead => exact .inr (.inr rfl)

theorem StepEffect.phase_cases {s : State} {w : View} (h : StepEffect s w) :
    w.phase = s.phase ∨ listedTransition s.phase w.phase = true ∨ resetTurn s ∧ w.phase = .idle := by
  cases h with
  | stay | writeTx => exact .inl rfl
  | reset hturn => exact .inr (.inr ⟨hturn, rfl⟩)
  | refuse p r sub hidle | accept d rest i hidle =>
    rw [hidle]
    exact .inr (.inl rfl)
  | respond p hdone => rcases (Phase.done_iff _).mp hdone with hp | hp <;> rw [hp] <;> exact .inr (.inl rfl)
  | sent hphase | issueReceive hphase =>
    rw [hphase]
    exact .inr (.inl rfl)
  | ioFailure r sub hphase => rcases hphase with hp | hp <;> rw [hp] <;> exact .inr (.inl rfl)
  | reply r a w hturn hphase hrecv hlen heff =>
    rw [hphase]
    rcases heff.phase_cases with hp | hp | hp <;> rw [hp] <;> exact .inr (.inl rfl)

/-- Settles O36: each effect of a step moves STATE along one row of the table, keeps it, or is the reset. -/
theorem onlyListedTransitions : Obligations.OnlyListedTransitions :=
  fun s t h => (step_effect s t h).phase_cases

/-- A reply enters FAILED only for its status byte. -/
theorem ReplyEffect.of_failed {v w : View} (h : ReplyEffect v w) (hw : w.phase = .failed) :
    w.rxbuf = v.rxbuf ∧ w.txbuf = v.txbuf ∧ respRdata w.resp = 0x00#8 := by
  cases h with
  | nack b => exact ⟨rfl, rfl, respRdata_packResp ..⟩
  | nextSegment | commit | commitBurstRead => nomatch hw

theorem StepEffect.of_failed {s : State} {w : View} (h : StepEffect s w) (hs : s.phase ≠ .failed) (hw : w.phase = .failed) :
    w.rxbuf = s.rxbuf ∧ w.txbuf = s.txbuf ∧ respRdata w.resp = 0x00#8 := by
  cases h with
  | refuse | ioFailure => exact ⟨rfl, rfl, respRdata_packResp ..⟩
  | reply r a w hturn hphase hrecv hlen heff => exact heff.of_failed hw
  | stay | writeTx => exact absurd hw hs
  | reset | accept | respond | sent | issueReceive => nomatch hw

/-- Settles O42: FAILED is entered by a refusal, a failed request or a wrong status byte, which write no buffer. -/
theorem failureLeavesOutputs : Obligations.FailureLeavesOutputs :=
  fun s t h => (step_effect s t h).of_failed

/-- From a state that is not IDLE, the handshake and the reset alone lead to IDLE. -/
theorem StepEffect.of_idle {s : State} {w : View} (h : StepEffect s w) (hs : s.phase ≠ .idle) (hw : w.phase = .idle) :
    resetTurn s ∨ w = { s.view with program := w.program, phase := .idle } := by
  cases h with
  | reset hturn => exact .inl hturn
  | respond => exact .inr rfl
  | stay | writeTx => exact absurd hw hs
  | refuse | accept | sent | issueReceive | ioFailure => nomatch hw
  | reply r a w hturn hphase hrecv hlen heff => rcases heff.phase_cases with hp | hp | hp <;> rw [hp] at hw <;> nomatch hw

/-- Settles O32: what IDLE holds is an invariant, which a state outside IDLE meets; the handshake writes STATE alone of the view. -/
theorem entryToIdleClears : Obligations.EntryToIdleClears := by
  intro s t h hs ht
  refine ⟨step_idleClean s t (fun hidle => absurd hidle hs) h ht, fun hreset => ?_⟩
  rcases (step_effect s t h).of_idle hs ht with hturn | hview
  · exact absurd hturn hreset
  · simp only [State.view, View.mk.injEq] at hview
    obtain ⟨-, hcur, hdiag, hchunks, hresp, htx, hrx, -⟩ := hview
    exact ⟨hcur, hdiag, hchunks, hresp, htx, hrx⟩

end Sys2Proof.Machine

/-! The turns of a transaction: the command port, the send, the receive, the response handshake (40_transaction.md R146-R157). -/

namespace Sys2Proof.Machine

open Sys2Proof.Config Sys2Proof.Safety

/-- In a transaction CUR stays: it is written on the way into a transaction, or by a reset. -/
theorem cur_of_busy (s t : State) (h : step s = .next t) (hs : s.phase.busy = true) (ht : t.phase.busy = true) :
    t.cur = s.cur := by
  by_contra hne
  rcases (step_effect s t h).of_cur_ne hne with hreset | ⟨hidle, -⟩
  · rw [step_of_resetTurn s hreset] at h
    cases h
    nomatch ht
  · rw [hidle] at hs
    nomatch hs

/-- Settles O22: the HOST's turn with a descriptor to present, outside IDLE and in IDLE. -/
theorem commandWaitsUnlessIdle : Obligations.CommandWaitsUnlessIdle := by
  refine ⟨fun s d rest ts hturn hprog => ⟨fun hbusy => ?_, fun hidle => ?_⟩, cur_of_busy⟩
  · rw [step_of_hostOp_none s ts _ rest hturn hprog (if_neg hbusy), afterTurn_of_cons s _ ts hturn]
  · rw [step_of_hostOp s ts _ rest _ hturn hprog (if_pos hidle), popHost_afterTurn s _ ts rest hturn]

/-- Settles O31: the handshake is enabled where a response is offered. -/
theorem responseHandshake : Obligations.ResponseHandshake := by
  intro s rest ts hturn hprog
  refine ⟨fun hdone => ?_, fun hv hf => ?_⟩
  · have hdone' : (popHost rest (afterTurn s)).phase.done = true := (Phase.done_iff _).mpr hdone
    rw [step_of_hostOp s ts _ rest _ hturn hprog (if_pos hdone'), respondAccept,
      answerHost_popHost_afterTurn s ts rest _ hturn]
    rfl
  · have hdone' : ¬ (popHost rest (afterTurn s)).phase.done = true := fun h => ((Phase.done_iff _).mp h).elim hv hf
    rw [step_of_hostOp_none s ts _ rest hturn hprog (if_neg hdone'), afterTurn_of_cons s _ ts hturn]

/-- Settles O24: IssueReceive is the FRAMER's own step, and SENT its one condition. -/
theorem receiveIssuedInSent : Obligations.ReceiveIssuedInSent := by
  intro s ts hturn
  rw [step_of_framerTurn s ts hturn, afterTurn_of_cons s _ ts hturn, framerMove]
  exact ⟨fun hp => if_pos hp, fun hp => if_neg hp⟩

/-- Settles O26: the table of R158, row by row. -/
theorem statusPolicy : Obligations.StatusPolicy := by
  intro p last
  refine ⟨rfl, rfl, ?_, rfl⟩
  cases p <;> simp [statusRequired]

theorem transportStep_eq_none (s : State) (hbuilt : s.phase ≠ .frameBuilt) (hawait : s.phase ≠ .awaitingReply) :
    transportStep s = none := by
  unfold transportStep
  cases hp : s.phase with
  | frameBuilt => exact absurd hp hbuilt
  | awaitingReply => exact absurd hp hawait
  | idle | sent | validated | failed => rfl

/-- The TRANSPORT's listed turn when it has no request to answer: the turn is used up. -/
theorem step_of_transport_waits (s : State) (ts : List Turn) (hturn : s.turns = .transport :: ts)
    (hnone : transportStep (afterTurn s) = none) : step s = .next { s with turns := ts } := by
  rw [step_of_listedTransport s ts hturn, transportMove, hnone, afterTurn_of_cons s _ ts hturn]
  rfl

/-- SENT for the exact count, else FAILED. -/
theorem send_eq_ite (a : SendAnswer) (s : State) :
    send a s = if a = .count s.sReg.toNat then { s with phase := .sent } else raise .transportError 2#4 0#8 s := by
  rcases send_cases a s with ⟨ha, hs⟩ | ⟨ha, hs⟩
  · rw [hs, if_pos ha]
  · rw [hs, if_neg ha]

/-- Settles O23: the one request outstanding in FRAME_BUILT is the send of TXSEG[0..S). -/
theorem sendAnswered : Obligations.SendAnswered := by
  intro s ts a sends recvs seg hturn htrans hseg
  refine ⟨fun hphase => ?_, fun hbuilt hawait => step_of_transport_waits s ts hturn (transportStep_eq_none _ hbuilt hawait)⟩
  have hans : s.transport.onSend s.params.chunkMax seg = some (a, .free sends recvs) := by rw [htrans]; rfl
  have hstep := (transportStep_next (afterTurn s) _).mpr (.inl ⟨hphase, seg, _, hseg, hans, rfl⟩)
  rw [step_of_transportTurn s _ (.inr (by simp [hturn])) (by simp [hphase]) hstep, send_eq_ite, afterTurn_of_cons s _ ts hturn]
  rfl

/-- Settles O25: the receive of S bytes is answered in AWAITING_REPLY, Err first, then the length, then the exact reply. -/
theorem receiveAnswered : Obligations.ReceiveAnswered := by
  intro s ts a sends recvs hturn htrans hphase
  have hrecv : s.transport.onRecv s.sReg.toNat = some (a, .free sends recvs) := by rw [htrans]; rfl
  have hstep : step s = receive a { s with turns := ts, transport := .free sends recvs } := by
    rw [step_of_transportTurn s _ (.inr (by simp [hturn])) (by simp [hphase])
      (transportStep_of_onRecv (afterTurn s) a _ hphase hrecv), afterTurn_of_cons s _ ts hturn]
    simp [offered]
  rw [hstep]
  refine ⟨?_, ?_⟩
  · rintro rfl
    rfl
  · rintro r rfl
    refine ⟨fun hlt => if_pos hlt, fun hgt => ?_, fun hlen => ⟨receive_of_exact_length r _ hlen, fun j hj => ?_, fun j hj => ?_⟩⟩
    · exact (if_neg (by simp only; omega)).trans (if_pos hgt)
    · rw [Mem.read_writeRange, if_pos (by omega), Nat.sub_zero]
    · exact Mem.read_writeRange_outside _ _ _ _ (.inr (by omega))

/-- The hang of R157 is a fixed point of the step. -/
theorem step_of_hang (s : State) (seg : List Byte) (hturns : s.turns = []) (hprog : s.host.program = [])
    (htrans : s.transport = .free [] []) (hseg : s.txseg.readRange 0 s.sReg.toNat = some seg)
    (hphase : s.phase = .frameBuilt ∨ s.phase = .awaitingReply) : step s = .next s := by
  have hwait : transportStep s = none ∧ s.phase ≠ .sent := by
    rcases hphase with hp | hp
    · simp [transportStep, transportSend, hp, hseg, htrans, Transport.onSend]
    · simp [transportStep, transportReceive, hp, htrans, Transport.onRecv]
  rw [step_of_noTurn s hturns, afterTurn_of_nil s hturns, freeMove, if_neg hwait.2, hwait.1, hostMove, hprog]
  rfl

/-- Settles O35: nothing moves in one step, so nothing does in any number of them. -/
theorem hangIsKept : Obligations.HangIsKept := by
  intro s seg hturns hprog htrans hseg hphase k
  have hstep : Sys2Proof.core.step s = .next s := step_of_hang s seg hturns hprog htrans hseg hphase
  induction k with
  | zero => rfl
  | succ k ih => simp only [Host.Core.run, hstep, ih]

end Sys2Proof.Machine

/-! A reply of the exact length: a wrong status byte, a segment that is not the last, and the commit (40_transaction.md
R150-R153). -/

namespace Sys2Proof.Machine

open Sys2Proof.Config Sys2Proof.Safety

theorem validate_of_wrong_status (s : State) (v : Byte) (hread : s.rxseg.read statusOffset = some v) (hv : v ≠ successMarker)
    (hq : statusRequired s.params.burstWriteStatus s.cur.op (s.remReg = s.sReg) = true) :
    validate s = .next (raise .remoteNack 1#4 v s) :=
  (validate_next s _).mpr (.inr ⟨hq, v, hread, .inl ⟨hv, rfl⟩⟩)

/-- Settles O27: byte 0 of the reply is in RXSEG, and a byte other than the marker enters FAILED with it. -/
theorem wrongStatusByteFails : Obligations.WrongStatusByteFails := by
  intro s ts v r sends recvs hturn htrans hphase hlen hv hq
  have hrecv : s.transport.onRecv s.sReg.toNat = some (.bytes (v :: r), .free sends recvs) := by rw [htrans]; rfl
  have hstep := (step_of_exact_reply s (v :: r) _ (.inr (by simp [hturn])) hphase hrecv hlen).trans
    (validate_of_wrong_status _ v (replyReceived_read_status _ v _ rfl) hv hq)
  exact ⟨_, hstep, rfl, respResult_packResp .., respSubcode_packResp .., respNackCode_packResp .., respDiag_packResp ..,
    respChunksDone_packResp .., rfl, rfl, rfl, rfl, rfl, rfl, rfl, rfl, rfl, rfl, rfl, rfl⟩

/-- The TRANSPORT's turn in AWAITING_REPLY with a reply of exactly S bytes that passes its check. -/
theorem step_of_passed_reply (s : State) (r : List Byte) (a : Transport) (hturn : transportTurn s)
    (hphase : s.phase = .awaitingReply) (hrecv : s.transport.onRecv s.sReg.toNat = some (.bytes r, a))
    (hlen : r.length = s.sReg.toNat)
    (hmark : statusRequired s.params.burstWriteStatus s.cur.op (s.remReg = s.sReg) = true → r.head? = some successMarker) :
    step s = continueOrComplete (replySettled r (offered [] a (afterTurn s))) := by
  calc step s = validate (replyReceived r (offered [] a (afterTurn s))) :=
        step_of_exact_reply s r a hturn hphase hrecv hlen
    _ = acceptSegment (replyReceived r (offered [] a (afterTurn s))) :=
        validate_of_status_met _ fun hq => replyReceived_read_status r _ _ (hmark hq)
    _ = continueOrComplete (replySettled r (offered [] a (afterTurn s))) := acceptSegment_replyReceived r _ hlen

/-! A segment that is not the last. -/

/-- K is below T, so that K + 1 does not wrap. -/
theorem kReg_succ_toNat (s : State) (hlegal : s.params.legal) (hgeom : transactionGeometry s) (hbusy : s.phase.busy = true) :
    (s.kReg + 1#16).toNat = s.kReg.toNat + 1 := by
  obtain ⟨-, -, -, -, -, hstart, -⟩ := hgeom hbusy
  have hk : s.kReg.toNat ≤ segmentStart s := Nat.le_mul_of_pos_right _ (by omega)
  have hT := s.tReg.isLt
  exact BitVec.toNat_add_of_lt (by simp only [BitVec.toNat_ofNat]; omega)

/-- The request bytes depend on CUR, the header registers and TXBUF alone. -/
theorem requestBytes_congr {s w : State} (hcur : w.cur = s.cur) (hhdr : w.hdr = s.hdr) (hH : w.hReg = s.hReg)
    (htx : w.txbuf = s.txbuf) (g n : Nat) : requestBytes w g n = requestBytes s g n := by
  simp only [requestBytes, bodyBytes, headerPart, hcur, hhdr, hH, htx]

/-- A settled reply that does not end the frame: the bytes right after segment K are built (40_transaction.md R153). -/
theorem continueOrComplete_replySettled (s : State) (r seg : List Byte) (hlegal : s.params.legal)
    (hgeom : transactionGeometry s) (hbusy : s.phase.busy = true) (hmore : s.sReg.toNat < s.remReg.toNat)
    (hbytes : requestBytes s (segmentStart s + s.sReg.toNat) (min s.params.chunkMax (s.remReg.toNat - s.sReg.toNat)) = some seg) :
    continueOrComplete (replySettled r s) =
      .next (segmentBuilt (min s.params.chunkMax (s.remReg.toNat - s.sReg.toNat)) seg (replySettled r s)) := by
  have hstart : segmentStart (replySettled r s) = segmentStart s + s.sReg.toNat := segmentStart_advance s hlegal hgeom hbusy hmore
  have hrem : (replySettled r s).remReg.toNat = s.remReg.toNat - s.sReg.toNat := advance_remReg_toNat s hmore.le
  have hsize : segmentSize (replySettled r s) = min s.params.chunkMax (s.remReg.toNat - s.sReg.toNat) := by
    rw [← hrem]
    rfl
  have hbytes' : requestBytes (replySettled r s) (segmentStart (replySettled r s)) (segmentSize (replySettled r s)) = some seg := by
    rw [requestBytes_congr (s := s) (w := replySettled r s) rfl rfl rfl rfl, hstart, hsize, hbytes]
  rw [continueOrComplete_of_rem _ ((replySettled_remReg_ne_zero r s hmore.le).mpr hmore), ← hsize]
  exact (buildSegment_next _ _).mpr ⟨seg, hbytes', rfl⟩

/-- Settles O28: the reply is settled, and the state it leaves builds segment K + 1. -/
theorem acceptedSegmentBuildsNext : Obligations.AcceptedSegmentBuildsNext := by
  intro s ts r sends recvs seg hlegal hgeom hturn htrans hphase hlen hmore hmark hbytes
  have hbusy : s.phase.busy = true := by rw [hphase]; rfl
  have hmiddle : s.remReg ≠ s.sReg := fun h => by simp [h] at hmore
  have hrecv : s.transport.onRecv s.sReg.toNat = some (.bytes r, .free sends recvs) := by rw [htrans]; rfl
  have hpassed := step_of_passed_reply s r _ (.inr (by simp [hturn])) hphase hrecv hlen
    fun hq => hmark (by simpa [hmiddle] using hq)
  have hbytes' := (requestBytes_congr (s := s) (w := offered [] (.free sends recvs) (afterTurn s)) rfl rfl rfl rfl
    (segmentStart s + s.sReg.toNat) (min s.params.chunkMax (s.remReg.toNat - s.sReg.toNat))).trans hbytes
  have hbuilt := continueOrComplete_replySettled (offered [] (.free sends recvs) (afterTurn s)) r seg hlegal hgeom hbusy hmore
    hbytes'
  refine ⟨_, hpassed.trans hbuilt, ?_⟩
  simp only [segmentBuilt, offered, afterTurn, replySettled, true_and]
  refine ⟨kReg_succ_toNat s hlegal hgeom hbusy, advance_remReg_toNat s hmore.le, ?_, fun hop => ⟨fun j hj hH => ?_, fun i hi => ?_⟩,
    fun hop => if_neg hop⟩
  · have hlt := s.remReg.isLt
    rw [BitVec.toNat_ofNat]
    omega
  · refine (replySettled_stg_read r s hop _).trans ?_
    rw [if_pos (by omega)]
    congr 1
    omega
  · exact (replySettled_stg_read r s hop i).trans (if_neg (by omega))

/-! The last reply. -/

theorem replySettled_remReg_of_last (r : List Byte) (s : State) (hlast : s.remReg = s.sReg) : (replySettled r s).remReg = 0#16 :=
  (congrArg (· - s.sReg) hlast).trans (BitVec.sub_self _)

/-- The frame of a READ or a WRITE is one segment, so its one reply has T bytes. -/
theorem sReg_eq_tReg_of_single (s : State) (hlegal : s.params.legal) (hgeom : transactionGeometry s) (hbusy : s.phase.busy = true)
    (hlast : s.remReg = s.sReg) (hop : s.cur.op.isBurst = false) : s.sReg.toNat = s.tReg.toNat ∧ 0 < s.tReg.toNat := by
  obtain ⟨hH, hT, -, -, -, hstart, hrem, -⟩ := hgeom hbusy
  have hheader := headerLen_le s.cur.mode
  have hframe : frameLen s.cur.op s.cur.mode s.cur.n = headerLen s.cur.mode + 1 := by simp [frameLen, bodyLen_eq, hop]
  have hk : s.kReg.toNat = 0 := by
    by_contra hne
    have hle : s.params.chunkMax ≤ segmentStart s := Nat.le_mul_of_pos_left _ (by omega)
    omega
  have hzero : segmentStart s = 0 := by simp [segmentStart, hk]
  rw [hlast] at hrem
  omega

/-- After the last reply of a BURST_READ every one of its N bytes is staged: what came before, and the reply. -/
theorem replySettled_stg_of_last (s : State) (r : List Byte) (hgeom : transactionGeometry s) (hbusy : s.phase.busy = true)
    (hlen : r.length = s.sReg.toNat) (hlast : s.remReg = s.sReg) (hop : s.cur.op = .burstRead) (i : Nat) (hi : i < s.cur.n.toNat) :
    (replySettled r s).stg.read i =
        (if i < segmentStart s - s.hReg.toNat then s.stg.read i else r[i + s.hReg.toNat - segmentStart s]?) ∧
      (segmentStart s - s.hReg.toNat ≤ i → i + s.hReg.toNat - segmentStart s < r.length) := by
  obtain ⟨hH, hT, -, -, -, hstart, hrem, -⟩ := hgeom hbusy
  have hframe : s.tReg.toNat = s.hReg.toNat + s.cur.n.toNat := by rw [hT, hH, hop]; rfl
  rw [hlast] at hrem
  refine ⟨?_, fun hge => by omega⟩
  rw [replySettled_stg_read r s hop]
  by_cases hbefore : i < segmentStart s - s.hReg.toNat
  · rw [if_neg (by omega), if_pos hbefore]
  · rw [if_pos (by omega), if_neg hbefore]

/-- The commit of a BURST_READ finds all the bytes it reads, and they are those of the replies. -/
theorem stg_readRange_of_last (s : State) (r : List Byte) (hstg : s.stg.wf) (hgeom : transactionGeometry s)
    (hstaged : repliesStaged s) (hbusy : s.phase.busy = true) (hlen : r.length = s.sReg.toNat) (hlast : s.remReg = s.sReg)
    (hop : s.cur.op = .burstRead) :
    ∃ bs, (replySettled r s).stg.readRange 0 s.cur.n.toNat = some bs ∧ ∀ i < s.cur.n.toNat,
      bs[i]? = if i < segmentStart s - s.hReg.toNat then s.stg.read i else r[i + s.hReg.toNat - segmentStart s]? := by
  have hread := replySettled_stg_of_last s r hgeom hbusy hlen hlast hop
  have hwf : (replySettled r s).stg.wf := by
    rw [replySettled]
    simp only [hop, if_true]
    exact Mem.writeRange_wf _ _ _ hstg
  have hall : (replySettled r s).stg.readRange 0 s.cur.n.toNat ≠ none := by
    refine Mem.readRange_of_read _ _ _ hwf fun i hi => ?_
    obtain ⟨hbyte, hin⟩ := hread i hi
    rw [Nat.zero_add, hbyte]
    split
    next hbefore => exact hstaged hbusy hop i hbefore
    next hafter => simpa using hin (by omega)
  obtain ⟨bs, hbs⟩ := Option.ne_none_iff_exists'.mp hall
  refine ⟨bs, hbs, fun i hi => ?_⟩
  rw [← Mem.read_of_readRange _ _ _ bs hbs i hi, Nat.zero_add]
  exact (hread i hi).1

/-- What the commit after the last reply writes to RXBUF and RESP. -/
theorem complete_replySettled (s : State) (r : List Byte) (hlegal : s.params.legal) (hstg : s.stg.wf)
    (hgeom : transactionGeometry s) (hstaged : repliesStaged s) (hbusy : s.phase.busy = true) (hlen : r.length = s.sReg.toNat)
    (hlast : s.remReg = s.sReg) :
    ∃ rx, complete (replySettled r s) =
        .next (finish (if s.cur.op = .read then r.getD (s.tReg.toNat - 1) 0#8 else 0#8) { replySettled r s with rxbuf := rx }) ∧
      (s.cur.op = .read → r[s.tReg.toNat - 1]? ≠ none) ∧
      (s.cur.op = .burstRead →
        (∀ i < s.cur.n.toNat, rx.read i =
          if i < segmentStart s - s.hReg.toNat then s.stg.read i else r[i + s.hReg.toNat - segmentStart s]?) ∧
        ∀ i, s.cur.n.toNat ≤ i → rx.read i = s.rxbuf.read i) ∧
      (s.cur.op ≠ .burstRead → rx = s.rxbuf) := by
  cases hop : s.cur.op with
  | write | burstWrite =>
    refine ⟨s.rxbuf, ?_, nofun, nofun, fun _ => rfl⟩
    rw [if_neg nofun]
    exact (complete_next _ _).mpr (.inl ⟨by simp [replySettled, hop], rfl⟩)
  | read =>
    obtain ⟨hsize, hpos⟩ := sReg_eq_tReg_of_single s hlegal hgeom hbusy hlast (by rw [hop]; rfl)
    have hin : s.tReg.toNat - 1 < r.length := by omega
    have hbyte : (replySettled r s).rxseg.read (s.tReg.toNat - 1) = some (r.getD (s.tReg.toNat - 1) 0#8) := by
      simp [replySettled, Mem.read_writeRange, hin]
    refine ⟨s.rxbuf, ?_, fun _ => by simp [hin], nofun, fun _ => rfl⟩
    rw [if_pos rfl]
    exact (complete_next _ _).mpr (.inr (.inl ⟨hop, _, hbyte, rfl⟩))
  | burstRead =>
    obtain ⟨bs, hbs, hbytes⟩ := stg_readRange_of_last s r hstg hgeom hstaged hbusy hlen hlast hop
    have hn := Mem.length_of_readRange _ _ _ _ hbs
    refine ⟨s.rxbuf.writeRange 0 bs, ?_, nofun, fun _ => ⟨fun i hi => ?_, fun i hi => ?_⟩, fun hne => absurd rfl hne⟩
    · rw [if_neg nofun]
      exact (complete_next _ _).mpr (.inr (.inr ⟨hop, bs, hbs, rfl⟩))
    · rw [Mem.read_writeRange, if_pos (by omega), Nat.sub_zero]
      exact hbytes i hi
    · exact Mem.read_writeRange_outside _ _ _ _ (.inr (by omega))

/-- Settles O29: the frame is done, so the reply is committed; nothing but what `complete_replySettled` names is written. -/
theorem lastReplyCommits : Obligations.LastReplyCommits := by
  intro s ts r sends recvs hlegal hstg hgeom hstaged hturn htrans hphase hlen hlast hmark
  have hbusy : s.phase.busy = true := by rw [hphase]; rfl
  have hrecv : s.transport.onRecv s.sReg.toNat = some (.bytes r, .free sends recvs) := by rw [htrans]; rfl
  have hpassed := step_of_passed_reply s r _ (.inr (by simp [hturn])) hphase hrecv hlen
    fun hq => hmark (by simpa [hlast] using hq)
  obtain ⟨rx, hcomplete, hread, hburst, hother⟩ :=
    complete_replySettled (offered [] (.free sends recvs) (afterTurn s)) r hlegal hstg hgeom hstaged hbusy hlen hlast
  refine ⟨_, hpassed.trans ((if_pos (replySettled_remReg_of_last r _ hlast)).trans hcomplete), ?_⟩
  simp only [finish, offered, afterTurn, replySettled, true_and]
  exact ⟨rfl, replySettled_remReg_of_last r s hlast, hread, hburst, fun hop => ⟨hother hop, if_neg hop⟩⟩

end Sys2Proof.Machine

/-! The checks before I/O (40_transaction.md R141-R143): which one applies, and what a descriptor that fails one leaves. -/

namespace Sys2Proof.Machine

open Sys2Proof.Config Sys2Proof.Safety

theorem precheck_of_zeroLength (op : Op) (f : Fields) (s : State) (hop : op.isBurst = true) (hn : f.n = 0#16) :
    precheck op f s = some (.invalidArgument, 3#4) := if_pos ⟨hop, hn⟩

theorem precheck_of_overCapacity (op : Op) (f : Fields) (s : State) (hop : op.isBurst = true) (hn : f.n ≠ 0#16)
    (hcap : s.params.bufSize < f.n.toNat) : precheck op f s = some (.resourceError, 1#4) := by
  rw [precheck, if_neg (fun h => hn h.2), if_pos ⟨hop, hcap⟩]

theorem precheck_of_linkDown (op : Op) (f : Fields) (s : State) (hlink : s.linkUp = false)
    (hn : op.isBurst = true → f.n ≠ 0#16 ∧ f.n.toNat ≤ s.params.bufSize) :
    precheck op f s = some (.transportError, 1#4) := by
  rw [precheck, if_neg (fun h => (hn h.1).1 h.2), if_neg (fun h => Nat.not_lt.mpr (hn h.1).2 h.2), if_pos hlink]

/-- The checks of a command read `link_up` and BUF_SIZE and nothing else of the state. -/
theorem precheck_congr_state (op : Op) (f : Fields) {s s' : State} (hlink : s'.linkUp = s.linkUp)
    (hbuf : s'.params.bufSize = s.params.bufSize) : precheck op f s' = precheck op f s := by
  simp only [precheck, hlink, hbuf]

theorem accept_of_failed_check (op : Op) (f : Fields) (s : State) (e : Result × BitVec 4) (hidle : s.phase = .idle)
    (hcheck : precheck op f s = some e) : accept op f s = .next (raise e.1 e.2 0#8 (clearProgress s)) :=
  (accept_next op f s _).mpr (.inr (.inl ⟨hidle, e, hcheck, rfl⟩))

/-- A command in IDLE that goes on has failed a check, or has its segment 0 built. -/
theorem exec_idle_cases (i : Instr) (s t : State) (hidle : s.phase = .idle) (h : exec i s = .next t) :
    (∃ e, precheck i.op i.fields s = some e ∧ t = raise e.1 e.2 0#8 (clearProgress s)) ∨
      ∃ bs, bs.length = segmentSize (latch i.op i.fields (clearProgress s)) ∧
        t = segmentBuilt (segmentSize (latch i.op i.fields (clearProgress s))) bs (latch i.op i.fields (clearProgress s)) := by
  rw [exec_eq_accept] at h
  rcases (accept_next _ _ s t).mp h with ⟨hbusy, -⟩ | ⟨-, e, he, rfl⟩ | ⟨-, -, hb⟩
  · exact absurd hidle hbusy
  · exact .inl ⟨e, he, rfl⟩
  · obtain ⟨bs, hbytes, rfl⟩ := (buildSegment_next _ t).mp hb
    exact .inr ⟨bs, length_of_requestBytes _ _ _ _ hbytes, rfl⟩

/-- Segment 0 is no longer than C and than the frame. -/
theorem segmentSize_latch_le (op : Op) (f : Fields) (s : State) :
    segmentSize (latch op f s) ≤ min s.params.chunkMax (frameLen op f.mode f.n) := by
  have hrem : (latch op f s).remReg.toNat ≤ frameLen op f.mode f.n := by
    rw [latch_remReg, BitVec.toNat_ofNat]
    exact Nat.mod_le _ _
  exact min_le_min_left _ hrem

/-- Settles O17: a failed check writes DIAG, CHUNKS_DONE, RESP, STATE and the history alone; a command that goes on writes its latches
and the S bytes of segment 0. -/
theorem acceptanceFrame : Obligations.AcceptanceFrame := by
  intro i s t _ hidle h
  rcases exec_idle_cases i s t hidle h with ⟨e, -, rfl⟩ | ⟨bs, hlen, rfl⟩
  · exact ⟨⟨rfl, rfl, rfl, rfl, rfl, rfl⟩, fun j => ⟨rfl, rfl, rfl, rfl⟩,
      .inr ⟨rfl, ⟨rfl, rfl, rfl, rfl, rfl, rfl, rfl⟩, fun j => rfl⟩⟩
  · refine ⟨⟨rfl, rfl, rfl, rfl, rfl, rfl⟩, fun j => ⟨rfl, rfl, rfl, rfl⟩, .inl ⟨rfl, rfl, fun j hj => ?_⟩⟩
    have hle := segmentSize_latch_le i.op i.fields (clearProgress s)
    exact Mem.read_writeRange_outside _ _ _ _ (.inr (by rw [clearProgress_params] at hle; omega))

/-- The failure of a descriptor is decided by what `precheck` and `decode` read: every IDLE state that agrees in it fails alike. -/
theorem present_failed (d : Word) (s t : State) (hidle : s.phase = .idle) (h : present d s = .next t) (ht : t.phase = .failed) :
    ∃ r sub, t = raise r sub 0#8 (clearProgress s) ∧
      ∀ s' : State, s'.phase = .idle → s'.linkUp = s.linkUp → s'.params.bufSize = s.params.bufSize →
        present d s' = .next (raise r sub 0#8 (clearProgress s')) := by
  rcases (present_next d s t).mp h with ⟨i, hdec, ha⟩ | ⟨e, hdec, he⟩
  · rcases exec_idle_cases i s t hidle ((exec_eq_accept i s).trans ha) with ⟨e, hcheck, rfl⟩ | ⟨bs, -, rfl⟩
    · refine ⟨e.1, e.2, rfl, fun s' hidle' hlink hbuf => (present_next d s' _).mpr (.inl ⟨i, hdec, ?_⟩)⟩
      exact accept_of_failed_check _ _ s' e hidle' ((precheck_congr_state _ _ hlink hbuf).trans hcheck)
    · nomatch ht
  · rcases (rejectDescriptor_next e s t).mp he with ⟨hbusy, -⟩ | ⟨-, sub, hsub, rfl⟩
    · exact absurd hidle hbusy
    · exact ⟨_, sub, rfl, fun s' hidle' _ _ =>
        (present_next d s' _).mpr (.inr ⟨e, hdec, (rejectDescriptor_next e s' _).mpr (.inr ⟨hidle', sub, hsub, rfl⟩)⟩)⟩

/-- Settles O18: the response of a failed check is packed from RESULT and SUBCODE, with DIAG and CHUNKS_DONE cleared before. -/
theorem failedChecksLatchNothing : Obligations.FailedChecksLatchNothing := by
  intro d s t hidle h ht
  obtain ⟨r, sub, rfl, halike⟩ := present_failed d s t hidle h ht
  exact ⟨⟨rfl, rfl, rfl, rfl, rfl, rfl, rfl⟩, respDiag_packResp .., respChunksDone_packResp ..,
    fun s' hidle' hlink hbuf => ⟨_, halike s' hidle' hlink hbuf, rfl, rfl⟩⟩

/-- A command that fails a check, presented in IDLE, ends in FAILED with nothing sent. -/
theorem refusedWith_of_precheck (d : Word) (s : State) (i : Instr) (e : Result × BitVec 4) (hidle : s.phase = .idle)
    (hdec : decode d = .ok i) (hcheck : precheck i.op i.fields s = some e) : refusedWith d s e.1.code e.2 :=
  ⟨_, (present_next d s _).mpr (.inl ⟨i, hdec, accept_of_failed_check _ _ s e hidle hcheck⟩), rfl, respResult_packResp ..,
    respSubcode_packResp .., rfl, rfl⟩

/-- The burst operations are those with OP 2 and above (30_encoding.md R102). -/
theorem isBurst_iff_code (op : Op) : op.isBurst = true ↔ 2 ≤ (op.code.setWidth 3).toNat := by
  cases op <;> decide

/-- A command that passes its checks has segment 0 built, or lacks a TXBUF byte. -/
theorem present_of_passed (d : Word) (s : State) (i : Instr) (hidle : s.phase = .idle) (hdec : decode d = .ok i)
    (hcheck : precheck i.op i.fields s = none) :
    (∃ t, present d s = .next t ∧ t.phase = .frameBuilt) ∨ present d s = .fault (.framerNoValue .txbuf) := by
  rw [present, hdec]
  simp only [exec_eq_accept, accept_of_passed _ _ s hidle hcheck]
  unfold buildSegment
  split
  next => exact .inr rfl
  next bs _ => exact .inl ⟨_, rfl, rfl⟩

/-- The three checks of a command, in their order (checks 3 to 5 of 40_transaction.md R142). -/
theorem command_checks_in_order (d : Word) (s : State) (i : Instr) (hidle : s.phase = .idle) (hdec : decode d = .ok i) :
    if i.op.isBurst = true ∧ i.fields.n = 0#16 then refusedWith d s 1#3 3#4
    else if i.op.isBurst = true ∧ s.params.bufSize < i.fields.n.toNat then refusedWith d s 5#3 1#4
    else if s.linkUp = false then refusedWith d s 2#3 1#4
    else (∃ t, present d s = .next t ∧ t.phase = .frameBuilt) ∨ present d s = .fault (.framerNoValue .txbuf) := by
  have hrefused := refusedWith_of_precheck d s i
  split_ifs with hzero hcap hlink
  · exact hrefused _ hidle hdec (precheck_of_zeroLength _ _ s hzero.1 hzero.2)
  · exact hrefused _ hidle hdec (precheck_of_overCapacity _ _ s hcap.1 (fun h0 => hzero ⟨hcap.1, h0⟩) hcap.2)
  · exact hrefused _ hidle hdec (precheck_of_linkDown _ _ s hlink fun hb =>
      ⟨fun h0 => hzero ⟨hb, h0⟩, Nat.le_of_not_lt fun hlt => hcap ⟨hb, hlt⟩⟩)
  · refine present_of_passed d s i hidle hdec ?_
    rw [precheck, if_neg hzero, if_neg hcap, if_neg hlink]

/-- Settles O19: the first two checks are the decoder's, and a descriptor that passes them is a command. -/
theorem checksBeforeIoInOrder : Obligations.ChecksBeforeIoInOrder := by
  intro d s hidle
  split
  next hop => exact refusedWith_of_decode_error d s _ _ hidle (decode_eq_reservedOp d hop) (.inl ⟨rfl, rfl⟩)
  next hop =>
    have hlegal := Nat.lt_of_not_le hop
    split
    next hbits => exact refusedWith_of_decode_error d s _ _ hidle (decode_eq_reservedBits d hlegal hbits) (.inr ⟨rfl, rfl⟩)
    next hbits =>
      rw [not_or, not_not, not_not] at hbits
      obtain ⟨i, hi⟩ := commandOf_of_lt _ (fieldsOf d) hlegal
      have hdec : decode d = .ok i := (decode_eq_ok d i).mpr ⟨(commandOf_eq_some _ _ i).mp hi, hbits⟩
      obtain ⟨hcode, -, -, -, -, hn⟩ := fields_of_decode d i hdec
      simpa only [isBurst_iff_code, hcode, hn] using command_checks_in_order d s i hidle hdec

/-- The response of a failed check: DIAG, NACK_CODE, RDATA and CHUNKS_DONE are 0. -/
theorem resp_of_failed_check (r : Result) (sub : BitVec 4) (s : State) :
    (raise r sub 0#8 (clearProgress s)).resp = packResp r 0#1 sub 0#8 0#8 0#16 := by
  rw [raise_resp, ite_self]
  rfl

/-- Settles O20: the words by evaluation of `packResp`; K is 0 in a clean IDLE, and so in the event. -/
theorem failedCheckResponses : Obligations.FailedCheckResponses := by
  intro i s hidle hclean
  have hfail (e : Result × BitVec 4) (hcheck : precheck i.op i.fields s = some e) :
      exec i s = .next (raise e.1 e.2 0#8 (clearProgress s)) :=
    (exec_eq_accept i s).trans (accept_of_failed_check _ _ s e hidle hcheck)
  obtain ⟨-, -, -, hk, -⟩ := hclean hidle
  refine ⟨fun hop hn => ⟨_, hfail _ (precheck_of_zeroLength _ _ s hop hn), rfl, resp_of_failed_check .., List.append_nil _⟩,
    fun hop hn hcap => ⟨_, hfail _ (precheck_of_overCapacity _ _ s hop hn hcap), rfl, resp_of_failed_check .., List.append_nil _⟩,
    fun hn hlink => ⟨_, hfail _ (precheck_of_linkDown _ _ s hlink hn), rfl, resp_of_failed_check .., ?_⟩⟩
  rw [raise_events, clearProgress_events, clearProgress_kReg, hk]
  rfl

end Sys2Proof.Machine

/-! Acceptance register by register: the header of each command, and segment 0 (40_transaction.md R141, R145). -/

namespace Sys2Proof.Machine

open Sys2Proof.Config Sys2Proof.Safety

/-- The header bytes of a frame of `t` bytes, in wire order (30_encoding.md R110), from the operands as the caller gave them. -/
def frameHeader (op : Op) (f : Fields) (t : Nat) : List Byte :=
  match f.mode with
  | .direct => [wireOpcode op .direct, BitVec.ofNat 8 (t / 256), BitVec.ofNat 8 t, addressByte (latchCur op f)]
  | .multiplexed =>
    [wireOpcode op .multiplexed, BitVec.ofNat 8 (t / 256), BitVec.ofNat 8 t, f.mux, addressByte (latchCur op f)]

theorem length_frameHeader (op : Op) (f : Fields) (t : Nat) : (frameHeader op f t).length = headerLen f.mode := by
  unfold frameHeader
  cases f.mode <;> rfl

theorem lenHi_ofNat (t : Nat) : lenHi (BitVec.ofNat 16 t) = BitVec.ofNat 8 (t / 256) := by
  apply BitVec.eq_of_toNat_eq
  simp only [lenHi, BitVec.extractLsb'_toNat, BitVec.toNat_ofNat, Nat.shiftRight_eq_div_pow]
  omega

theorem lenLo_ofNat (t : Nat) : lenLo (BitVec.ofNat 16 t) = BitVec.ofNat 8 t := by
  apply BitVec.eq_of_toNat_eq
  simp only [lenLo, BitVec.extractLsb'_toNat, BitVec.toNat_ofNat, Nat.shiftRight_zero]
  omega

/-- HDR at acceptance holds the header bytes. -/
theorem header_eq_headerRegisters (op : Op) (f : Fields) (t : Nat) (old : Hdr) :
    header (latchCur op f) (BitVec.ofNat 16 t) old = headerRegisters f.mode (frameHeader op f t) old := by
  obtain ⟨mode, mux, addr, wdata, n⟩ := f
  cases mode <;>
  · simp only [header, latchCur, headerRegisters, frameHeader, lenHi_ofNat, lenLo_ofNat]
    rfl

/-- The first H registers read back as the header bytes. -/
theorem take_headerRegisters (m : Mode) (hs : List Byte) (old : Hdr) (hlen : hs.length = headerLen m) :
    (headerRegisters m hs old).toList.take (headerLen m) = hs := by
  cases m with
  | direct =>
    match hs, hlen with
    | [_, _, _, _], _ => rfl
  | multiplexed =>
    match hs, hlen with
    | [_, _, _, _, _], _ => rfl

/-- A segment that starts at position 0 and holds the whole header: the header bytes, then the body from its start. -/
theorem requestBytes_zero (s : State) (n : Nat) (hH : s.hReg.toNat ≤ n) (h5 : s.hReg.toNat ≤ 5) :
    requestBytes s 0 n = (bodyBytes s 0 (n - s.hReg.toNat)).map (s.hdr.toList.take s.hReg.toNat ++ ·) := by
  have hlen := headerPart_length s 0 n h5
  have hpart : headerPart s 0 n = s.hdr.toList.take s.hReg.toNat := by
    rw [headerPart, List.drop_zero, List.take_take, min_eq_right hH]
  rw [requestBytes, hlen, hpart, Nat.zero_sub, Nat.sub_zero, min_eq_right hH]

/-- The state after acceptance is the one `accepted` names. -/
theorem segmentBuilt_latch_eq_accepted (op : Op) (f : Fields) (s : State) (n : Nat) (seg : List Byte) (hn : seg.length = n) :
    segmentBuilt n seg (latch op f (clearProgress s)) =
      accepted op (accessFlag op) f (frameHeader op f (frameLen op f.mode f.n)) (frameLen op f.mode f.n) seg s := by
  have haddr : f.addr.extractLsb' 0 7 = f.addr.setWidth 7 := BitVec.setWidth_eq_extractLsb' (by decide) |>.symm
  have hbit : addrBit7 f = maskedBit f := by
    apply BitVec.eq_of_getLsbD_eq
    intro j hj
    simp [addrBit7, maskedBit, show j = 0 by omega]
  have hevent : (addrBit7 f = 1#1) = (f.addr.getLsbD 7 = true) := by
    rw [hbit, maskedBit]
    cases f.addr.getLsbD 7 <;> simp
  subst hn
  simp only [segmentBuilt, latch, clearProgress, accepted, header_eq_headerRegisters, length_frameHeader, hevent]
  simp only [latchCur, haddr, hbit]

/-- A command that passes its checks, its operands and the bytes of segment 0 written out. -/
theorem exec_eq_accepted (i : Instr) (s : State) (body : List Byte) (hlegal : s.params.legal) (hidle : s.phase = .idle)
    (hcheck : precheck i.op i.fields s = none)
    (hbody : bodyBytes (latch i.op i.fields (clearProgress s)) 0
      (min (s.params.chunkMax - headerLen i.fields.mode) (bodyLen i.op i.fields.n)) = some body) :
    exec i s = .next (accepted i.op (accessFlag i.op) i.fields
      (frameHeader i.op i.fields (frameLen i.op i.fields.mode i.fields.n)) (frameLen i.op i.fields.mode i.fields.n)
      (frameHeader i.op i.fields (frameLen i.op i.fields.mode i.fields.n) ++ body) s) := by
  obtain ⟨hn, -⟩ := of_precheck_eq_none _ _ s hcheck
  have hbuf (hb : i.op.isBurst = true) := (hn hb).2
  have hH := latch_hReg_toNat i.op i.fields (clearProgress s)
  have hrem := latch_remReg_toNat i.op i.fields (clearProgress s) (frameLen_lt i.op i.fields s.params hlegal hbuf)
  have h5 := headerLen_le i.fields.mode
  obtain ⟨⟨hC, -⟩, -⟩ := hlegal
  have hsize : segmentSize (latch i.op i.fields (clearProgress s)) =
      min s.params.chunkMax (headerLen i.fields.mode + bodyLen i.op i.fields.n) := by
    rw [segmentSize, hrem]
    rfl
  have hbytes : requestBytes (latch i.op i.fields (clearProgress s)) (segmentStart (latch i.op i.fields (clearProgress s)))
      (segmentSize (latch i.op i.fields (clearProgress s))) =
        some (frameHeader i.op i.fields (frameLen i.op i.fields.mode i.fields.n) ++ body) := by
    have hrest : min s.params.chunkMax (headerLen i.fields.mode + bodyLen i.op i.fields.n) - headerLen i.fields.mode =
        min (s.params.chunkMax - headerLen i.fields.mode) (bodyLen i.op i.fields.n) := by omega
    rw [segmentStart_latch, hsize, requestBytes_zero _ _ (by omega) (by omega), hH, hrest, hbody, latch_hdr,
      header_eq_headerRegisters, take_headerRegisters _ _ _ (length_frameHeader ..)]
    rfl
  rw [exec_eq_accept, accept_of_passed _ _ s hidle hcheck, (buildSegment_next _ _).mpr ⟨_, hbytes, rfl⟩,
    segmentBuilt_latch_eq_accepted _ _ s _ _ (length_of_requestBytes _ _ _ _ hbytes)]

/-- The address byte of a write access, as R112 writes it. -/
theorem addressByte_of_write (op : Op) (f : Fields) (h : accessFlag op = 1#1) :
    addressByte (latchCur op f) = 0x80#8 ||| (f.addr &&& 0x7F#8) := by
  rw [addressByte_latchCur, h, BitVec.or_comm]
  rfl

/-- The address byte of a read access, as R112 writes it. -/
theorem addressByte_of_read (op : Op) (f : Fields) (h : accessFlag op = 0#1) :
    addressByte (latchCur op f) = f.addr &&& 0x7F#8 := by
  rw [addressByte_latchCur, h]
  exact BitVec.or_zero

/-- The WRITE frame of R112: the header and WDATA. -/
theorem writeFrame_eq (f : Fields) : writeFrame f = frameHeader .write f (headerLen f.mode + 1) ++ [f.wdata] := by
  unfold writeFrame frameHeader
  rw [addressByte_of_write .write f rfl]
  cases f.mode <;> rfl

/-- The READ frame of R112: the header and FILL. -/
theorem readFrame_eq (f : Fields) : readFrame f = frameHeader .read f (headerLen f.mode + 1) ++ [fill] := by
  unfold readFrame frameHeader
  rw [addressByte_of_read .read f rfl]
  cases f.mode <;> rfl

theorem burstWriteHeader_eq (f : Fields) : burstWriteHeader f = frameHeader .burstWrite f (headerLen f.mode + f.n.toNat) := by
  unfold burstWriteHeader frameHeader
  rw [addressByte_of_write .burstWrite f rfl]
  cases f.mode <;> rfl

theorem burstReadHeader_eq (f : Fields) : burstReadHeader f = frameHeader .burstRead f (headerLen f.mode + f.n.toNat) := by
  unfold burstReadHeader frameHeader
  rw [addressByte_of_read .burstRead f rfl]
  cases f.mode <;> rfl

/-- The body of a single-register frame is one byte, and C leaves room for it. -/
theorem min_body_single (s : State) (m : Mode) (hlegal : s.params.legal) : min (s.params.chunkMax - headerLen m) 1 = 1 := by
  obtain ⟨⟨hC, -⟩, -⟩ := hlegal
  have h5 := headerLen_le m
  omega

/-- Settles O12: one segment, the header and WDATA. -/
theorem writeAccepted : Obligations.WriteAccepted := by
  intro f s hlegal hidle hlink
  have hbody : bodyBytes (latch .write f (clearProgress s)) 0 (min (s.params.chunkMax - headerLen f.mode) 1) = some [f.wdata] := by
    rw [min_body_single s f.mode hlegal]
    rfl
  rw [exec_eq_accepted (.write f) s _ hlegal hidle (precheck_eq_none _ _ s hlink nofun) hbody, writeFrame_eq,
    List.dropLast_concat, List.length_append, length_frameHeader]
  rfl

/-- Settles O13: one segment, the header and FILL. -/
theorem readAccepted : Obligations.ReadAccepted := by
  intro f s hlegal hidle hlink
  have hbody : bodyBytes (latch .read f (clearProgress s)) 0 (min (s.params.chunkMax - headerLen f.mode) 1) = some [fill] := by
    rw [min_body_single s f.mode hlegal]
    rfl
  rw [exec_eq_accepted (.read f) s _ hlegal hidle (precheck_eq_none _ _ s hlink nofun) hbody, readFrame_eq,
    List.dropLast_concat, List.length_append, length_frameHeader]
  rfl

/-- Settles O14: the body of segment 0 is the payload's first bytes, which TXBUF holds. -/
theorem burstWriteAccepted : Obligations.BurstWriteAccepted := by
  intro f s pay hlegal hidle hlink hn1 hn2 hpay
  rw [burstWriteHeader_eq, length_frameHeader] at hpay ⊢
  exact exec_eq_accepted (.burstWrite f) s pay hlegal hidle (precheck_eq_none _ _ s hlink fun _ => ⟨hn1, hn2⟩) hpay

/-- Settles O15: the body of segment 0 is FILL. -/
theorem burstReadAccepted : Obligations.BurstReadAccepted := by
  intro f s hlegal hidle hlink hn1 hn2
  rw [burstReadHeader_eq, length_frameHeader]
  exact exec_eq_accepted (.burstRead f) s _ hlegal hidle (precheck_eq_none _ _ s hlink fun _ => ⟨hn1, hn2⟩) rfl

end Sys2Proof.Machine

/-! DIAG, its copies in response words, and EV_ADDR_MASKED (41_single_register.md R183, 10_state.md R39): no step reads them. Every
operation but acceptance, which latches DIAG anew, does to a state without them what it does to the state with them. -/

namespace Sys2Proof.Machine

open Sys2Proof.Config Sys2Proof.Safety

/-! What `hideDiag` leaves as it is. -/

@[simp] theorem hideDiag_params (s : State) : (hideDiag s).params = s.params := rfl
@[simp] theorem hideDiag_phase (s : State) : (hideDiag s).phase = s.phase := rfl
@[simp] theorem hideDiag_cur (s : State) : (hideDiag s).cur = s.cur := rfl
@[simp] theorem hideDiag_remReg (s : State) : (hideDiag s).remReg = s.remReg := rfl
@[simp] theorem hideDiag_sReg (s : State) : (hideDiag s).sReg = s.sReg := rfl
@[simp] theorem hideDiag_tReg (s : State) : (hideDiag s).tReg = s.tReg := rfl
@[simp] theorem hideDiag_rxbuf (s : State) : (hideDiag s).rxbuf = s.rxbuf := rfl
@[simp] theorem hideDiag_stg (s : State) : (hideDiag s).stg = s.stg := rfl
@[simp] theorem hideDiag_txseg (s : State) : (hideDiag s).txseg = s.txseg := rfl
@[simp] theorem hideDiag_rxseg (s : State) : (hideDiag s).rxseg = s.rxseg := rfl
@[simp] theorem hideDiag_transport (s : State) : (hideDiag s).transport = s.transport := rfl
@[simp] theorem hideDiag_turns (s : State) : (hideDiag s).turns = s.turns := rfl
@[simp] theorem hideDiag_program (s : State) : (hideDiag s).host.program = s.host.program := rfl

/-! What `hideDiag` takes out is gone once it has been applied. -/

theorem withoutDiag_idem (w : Word) : withoutDiag (withoutDiag w) = withoutDiag w := by
  rw [withoutDiag, withoutDiag, BitVec.and_assoc, BitVec.and_self]

theorem answerWithoutDiag_idem (a : HostAnswer) : answerWithoutDiag (answerWithoutDiag a) = answerWithoutDiag a := by
  cases a with
  | response w => exact congrArg HostAnswer.response (withoutDiag_idem w)
  | resp w => exact congrArg HostAnswer.resp (withoutDiag_idem w)
  | rxByte v | status v => rfl

theorem hideDiag_idem (s : State) : hideDiag (hideDiag s) = hideDiag s := by
  simp [hideDiag, withoutDiag_idem, Function.comp_def, answerWithoutDiag_idem]

@[simp] theorem mapNext_hideDiag_idem (o : Answer) : mapNext hideDiag (mapNext hideDiag o) = mapNext hideDiag o := by
  cases o <;> simp [mapNext, hideDiag_idem]

theorem mapNext_hideDiag_next (s : State) : mapNext hideDiag (.next (hideDiag s)) = mapNext hideDiag (.next s) :=
  congrArg Host.Outcome.next (hideDiag_idem s)

/-- A step that answers alike without what `hideDiag` takes out, to the letter, answers alike but for that. -/
theorem mapNext_hideDiag_of_eq {o o' : Answer} (h : o' = mapNext hideDiag o) : mapNext hideDiag o' = mapNext hideDiag o := by
  rw [h, mapNext_hideDiag_idem]

/-! The named updates. A response word packed without DIAG is the response word without its DIAG bit. -/

theorem withoutDiag_packResp (r : Result) (diag : BitVec 1) (sub : BitVec 4) (nack rdata : Byte) (chunks : Half) :
    withoutDiag (packResp r diag sub nack rdata chunks) = packResp r 0#1 sub nack rdata chunks := by
  apply BitVec.eq_of_getLsbD_eq
  intro j hj
  simp only [withoutDiag, packResp, BitVec.getLsbD_and, BitVec.getLsbD_not, BitVec.getLsbD_append]
  interval_cases j <;> simp

theorem filter_failureEvents (r : Result) (sub : BitVec 4) (v : Byte) (k : Half) :
    (failureEvents r sub v k).filter notAddrMasked = failureEvents r sub v k := by
  cases r <;> rfl

theorem raise_hideDiag (r : Result) (sub : BitVec 4) (v : Byte) (s : State) :
    raise r sub v (hideDiag s) = hideDiag (raise r sub v s) := by
  simp [raise, hideDiag, withoutDiag_packResp, filter_failureEvents]

theorem finish_hideDiag (d : Byte) (s : State) : finish d (hideDiag s) = hideDiag (finish d s) := by
  simp [finish, hideDiag, withoutDiag_packResp]

theorem answerHost_hideDiag (a : HostAnswer) (s : State) :
    answerHost (answerWithoutDiag a) (hideDiag s) = hideDiag (answerHost a s) := by
  simp [answerHost, hideDiag]

theorem applyReset_hideDiag (s : State) : applyReset (hideDiag s) = hideDiag (applyReset s) := by
  simp [applyReset, hideDiag, State.reset, withoutDiag]

/-! The operations of a transaction under way. -/

theorem complete_hideDiag (s : State) : complete (hideDiag s) = mapNext hideDiag (complete s) := by
  have hfinish (d : Byte) (u : State) : Host.Outcome.next (finish d (hideDiag u)) = mapNext hideDiag (.next (finish d u)) :=
    congrArg Host.Outcome.next (finish_hideDiag d u)
  unfold complete
  rw [hideDiag_cur, hideDiag_rxseg, hideDiag_tReg, hideDiag_stg]
  cases s.cur.op with
  | write | burstWrite => exact hfinish 0#8 s
  | read =>
    cases s.rxseg.read (s.tReg.toNat - 1) with
    | none => rfl
    | some d => exact hfinish d s
  | burstRead =>
    cases s.stg.readRange 0 s.cur.n.toNat with
    | none => rfl
    | some bs => exact hfinish 0#8 { s with rxbuf := s.rxbuf.writeRange 0 bs }

theorem continueOrComplete_hideDiag (s : State) : continueOrComplete (hideDiag s) = mapNext hideDiag (continueOrComplete s) := by
  rw [continueOrComplete, continueOrComplete, hideDiag_remReg, complete_hideDiag, buildSegment_hideDiag, apply_ite (mapNext hideDiag)]

theorem acceptSegment_hideDiag (s : State) : acceptSegment (hideDiag s) = mapNext hideDiag (acceptSegment s) := by
  unfold acceptSegment
  rw [hideDiag_cur, hideDiag_rxseg, hideDiag_sReg]
  split
  · cases s.rxseg.readRange 0 s.sReg.toNat with
    | none => rfl
    | some r => exact continueOrComplete_hideDiag (advance (stageReply r s))
  · exact continueOrComplete_hideDiag (advance s)

theorem validate_hideDiag (s : State) : validate (hideDiag s) = mapNext hideDiag (validate s) := by
  unfold validate
  rw [hideDiag_params, hideDiag_cur, hideDiag_rxseg, hideDiag_sReg, hideDiag_remReg, acceptSegment_hideDiag,
    apply_ite (mapNext hideDiag)]
  cases s.rxseg.read statusOffset with
  | none => rfl
  | some v =>
    simp only [raise_hideDiag, apply_ite (mapNext hideDiag)]
    rfl

theorem receive_hideDiag (ans : RecvAnswer) (s : State) : receive ans (hideDiag s) = mapNext hideDiag (receive ans s) := by
  cases ans with
  | err => exact congrArg Host.Outcome.next (raise_hideDiag _ _ _ s)
  | bytes r =>
    have hvalidate : validate (replyReceived r (hideDiag s)) = mapNext hideDiag (validate (replyReceived r s)) :=
      validate_hideDiag (replyReceived r s)
    rw [receive, receive, hideDiag_sReg, hvalidate, raise_hideDiag, raise_hideDiag, apply_ite (mapNext hideDiag),
      apply_ite (mapNext hideDiag)]
    rfl

theorem send_hideDiag (ans : SendAnswer) (s : State) : send ans (hideDiag s) = hideDiag (send ans s) := by
  rw [send_eq_ite, send_eq_ite, hideDiag_sReg, raise_hideDiag, apply_ite hideDiag]
  rfl

theorem transportStep_hideDiag (s : State) : transportStep (hideDiag s) = (transportStep s).map (mapNext hideDiag) := by
  unfold transportStep
  rw [hideDiag_phase]
  cases s.phase with
  | frameBuilt =>
    simp only [transportSend, hideDiag_txseg, hideDiag_sReg, hideDiag_transport, hideDiag_params]
    cases s.txseg.readRange 0 s.sReg.toNat with
    | none => rfl
    | some seg =>
      dsimp only
      cases s.transport.onSend s.params.chunkMax seg with
      | none => rfl
      | some a => exact congrArg (fun t => some (Host.Outcome.next t)) (send_hideDiag a.1 (offered [seg] a.2 s))
  | awaitingReply =>
    simp only [transportReceive, hideDiag_sReg, hideDiag_transport]
    cases s.transport.onRecv s.sReg.toNat with
    | none => rfl
    | some a => exact congrArg some (receive_hideDiag a.1 (offered [] a.2 s))
  | idle | sent | validated | failed => rfl

/-! The HOST's actions. A command that is accepted latches DIAG from its own operands, so the state it leaves has a DIAG whatever the
state before it had. -/

theorem rejectDescriptor_hideDiag (e : DecodeError) (s : State) :
    rejectDescriptor e (hideDiag s) = mapNext hideDiag (rejectDescriptor e s) := by
  have hraise (sub : BitVec 4) : raise .invalidArgument sub 0#8 (clearProgress (hideDiag s)) =
      hideDiag (raise .invalidArgument sub 0#8 (clearProgress s)) := raise_hideDiag _ _ _ (clearProgress s)
  unfold rejectDescriptor
  rw [hideDiag_phase, hraise, hraise, apply_ite (mapNext hideDiag)]
  cases e <;> rfl

theorem accept_hideDiag (op : Op) (f : Fields) (s : State) :
    mapNext hideDiag (accept op f (hideDiag s)) = mapNext hideDiag (accept op f s) := by
  by_cases hidle : s.phase = .idle
  · cases hcheck : precheck op f s with
    | some e =>
      rw [accept_of_failed_check op f (hideDiag s) e hidle hcheck, accept_of_failed_check op f s e hidle hcheck]
      exact mapNext_hideDiag_of_eq (congrArg Host.Outcome.next (raise_hideDiag _ _ _ (clearProgress s)))
    | none =>
      have hlatch : hideDiag (latch op f (clearProgress (hideDiag s))) = hideDiag (latch op f (clearProgress s)) := by
        simp [hideDiag, latch, clearProgress, withoutDiag_idem, Function.comp_def, answerWithoutDiag_idem]
      rw [accept_of_passed op f (hideDiag s) hidle hcheck, accept_of_passed op f s hidle hcheck, ← buildSegment_hideDiag, hlatch,
        buildSegment_hideDiag]
  · simp [accept, hidle, mapNext_hideDiag_next]

theorem present_hideDiag (d : Word) (s : State) : mapNext hideDiag (present d (hideDiag s)) = mapNext hideDiag (present d s) := by
  unfold present
  cases decode d with
  | ok i => simpa only [exec_eq_accept] using accept_hideDiag i.op i.fields s
  | error e => exact mapNext_hideDiag_of_eq (rejectDescriptor_hideDiag e s)

theorem respondAccept_hideDiag (s : State) : respondAccept (hideDiag s) = hideDiag (respondAccept s) :=
  congrArg enterIdle (answerHost_hideDiag (.response s.resp) s)

theorem hostWriteTx_hideDiag (i : Half) (v : Byte) (s : State) :
    hostWriteTx i v (hideDiag s) = (hostWriteTx i v s).map (mapNext hideDiag) := by
  unfold hostWriteTx
  rw [hideDiag_params, hideDiag_phase, apply_ite (Option.map (mapNext hideDiag)), apply_ite (Option.map (mapNext hideDiag))]
  rfl

theorem hostReadRx_hideDiag (i : Half) (s : State) : hostReadRx i (hideDiag s) = mapNext hideDiag (hostReadRx i s) := by
  unfold hostReadRx
  rw [hideDiag_params, hideDiag_rxbuf]
  split
  · rfl
  · cases s.rxbuf.read i.toNat with
    | none => rfl
    | some v => exact congrArg Host.Outcome.next (answerHost_hideDiag (.rxByte v) s)

theorem hostOp_hideDiag (o : HostOp) (s : State) :
    (hostOp o (hideDiag s)).map (mapNext hideDiag) = (hostOp o s).map (mapNext hideDiag) := by
  have hnext {t t' : State} (h : t' = hideDiag t) : some (mapNext hideDiag (.next t')) = some (mapNext hideDiag (.next t)) :=
    congrArg some (mapNext_hideDiag_of_eq (congrArg Host.Outcome.next h))
  cases o with
  | issue d =>
    rw [hostOp, hostOp, hideDiag_phase]
    split
    · exact congrArg some (present_hideDiag d s)
    · rfl
  | takeResponse =>
    rw [hostOp, hostOp, hideDiag_phase]
    split
    · exact hnext (respondAccept_hideDiag s)
    · rfl
  | writeTx i v => simp [hostOp, hostWriteTx_hideDiag, Function.comp_def]
  | readRx i => simp [hostOp, hostReadRx_hideDiag]
  | readStatus => exact hnext (answerHost_hideDiag (.status (statusWord s)) s)
  | readResp => exact hnext (answerHost_hideDiag (.resp s.resp) s)

/-! The turns. -/

theorem hostMove_hideDiag (s : State) : mapNext hideDiag (hostMove (hideDiag s)) = mapNext hideDiag (hostMove s) := by
  unfold hostMove
  rw [hideDiag_program]
  cases s.host.program with
  | nil => exact mapNext_hideDiag_next s
  | cons o rest => exact mapNext_getD_congr hideDiag (hostOp_hideDiag o (popHost rest s)) (mapNext_hideDiag_next s)

theorem framerMove_hideDiag (s : State) : framerMove (hideDiag s) = mapNext hideDiag (framerMove s) := by
  rw [framerMove, framerMove, hideDiag_phase, apply_ite (mapNext hideDiag)]
  rfl

/-- The TRANSPORT's answer, or what stands for it when there is none. -/
theorem transportStep_getD_hideDiag (s : State) {y y' : Answer} (hy : mapNext hideDiag y = mapNext hideDiag y') :
    mapNext hideDiag ((transportStep (hideDiag s)).getD y) = mapNext hideDiag ((transportStep s).getD y') :=
  mapNext_getD_congr hideDiag (by simp [transportStep_hideDiag, Function.comp_def]) hy

theorem freeMove_hideDiag (s : State) : mapNext hideDiag (freeMove (hideDiag s)) = mapNext hideDiag (freeMove s) := by
  unfold freeMove
  rw [hideDiag_phase]
  split
  · exact mapNext_hideDiag_of_eq (framerMove_hideDiag s)
  · exact transportStep_getD_hideDiag s (hostMove_hideDiag s)

/-- A step does the same whatever DIAG, its copies and the events are, but for those. -/
theorem step_hideDiag (s : State) : mapNext hideDiag (step (hideDiag s)) = mapNext hideDiag (step s) := by
  unfold step takeTurn
  rw [hideDiag_turns]
  cases s.turns with
  | nil => exact freeMove_hideDiag s
  | cons u ts =>
    cases u with
    | host => exact hostMove_hideDiag { s with turns := ts }
    | framer => exact mapNext_hideDiag_of_eq (framerMove_hideDiag { s with turns := ts })
    | transport => exact transportStep_getD_hideDiag { s with turns := ts } (mapNext_hideDiag_next { s with turns := ts })
    | link v => exact mapNext_hideDiag_next { s with turns := ts, linkUp := v }
    | reset => exact mapNext_hideDiag_of_eq (congrArg Host.Outcome.next (applyReset_hideDiag { s with turns := ts }))

/-- Settles O54: two states alike but for what `hideDiag` takes out step as the one state without it does. -/
theorem diagNeverInfluencesAStep : Obligations.DiagNeverInfluencesAStep := by
  intro s s' h
  rw [← step_hideDiag s, h, step_hideDiag s']

end Sys2Proof.Machine

/-! A whole single-register transaction, in the order of the agents with no turn listed (log 3): acceptance, the answer to the send,
IssueReceive, the answer to the receive (41_single_register.md R180, R181). -/

namespace Sys2Proof.Machine

open Sys2Proof.Config Sys2Proof.Safety

/-! The steps with no turn listed. -/

theorem run_succ_of_step {s t : State} (h : step s = .next t) (k : Nat) :
    Sys2Proof.core.run (k + 1) s = Sys2Proof.core.run k t := by
  have hstep : Sys2Proof.core.step s = .next t := h
  simp only [Host.Core.run, hstep]

theorem run_add {s t : State} (m k : Nat) (h : Sys2Proof.core.run m s = .next t) :
    Sys2Proof.core.run (m + k) s = Sys2Proof.core.run k t := by
  induction m generalizing s with
  | zero =>
    cases h
    rw [Nat.zero_add]
  | succ m ih =>
    rw [Nat.add_right_comm]
    simp only [Host.Core.run] at h ⊢
    cases hstep : Sys2Proof.core.step s with
    | next u =>
      simp only [hstep] at h
      exact ih h
    | fault r | refused r => simp [hstep] at h

/-- The HOST's next action, when neither the FRAMER nor the TRANSPORT has a step. -/
theorem step_of_free_hostOp (s : State) (o : HostOp) (rest : List HostOp) (ans : Answer) (hturns : s.turns = [])
    (hprog : s.host.program = o :: rest) (hsent : s.phase ≠ .sent) (hwait : transportStep s = none)
    (hop : hostOp o (popHost rest s) = some ans) : step s = ans := by
  rw [step_of_noTurn s hturns, afterTurn_of_nil s hturns, freeMove, if_neg hsent, hwait, Option.getD_none, hostMove, hprog]
  simp only [hop, Option.getD_some]

/-- The HOST presents a command in IDLE. -/
theorem step_of_free_issue (s : State) (d : Word) (rest : List HostOp) (i : Instr) (hidle : s.phase = .idle)
    (hturns : s.turns = []) (hprog : s.host.program = .issue d :: rest) (hdec : decode d = .ok i) :
    step s = exec i (popHost rest s) := by
  refine step_of_free_hostOp s _ rest _ hturns hprog (by simp [hidle]) (by simp [transportStep, hidle]) ?_
  simp [hostOp, hidle, present, hdec]

/-- The HOST takes the response of a transaction that ended in VALIDATED. -/
theorem step_of_free_takeResponse (s : State) (rest : List HostOp) (hphase : s.phase = .validated) (hturns : s.turns = [])
    (hprog : s.host.program = .takeResponse :: rest) : step s = .next (respondAccept (popHost rest s)) := by
  refine step_of_free_hostOp s _ rest _ hturns hprog (by simp [hphase]) (by simp [transportStep, hphase]) ?_
  simp [hostOp, hphase, Phase.done]

/-- The TRANSPORT answers the send of the segment in TXSEG. -/
theorem step_of_answered_send (s : State) (seg : List Byte) (a : SendAnswer) (tr : Transport) (hturns : s.turns = [])
    (hphase : s.phase = .frameBuilt) (hseg : s.txseg.readRange 0 s.sReg.toNat = some seg)
    (hsend : s.transport.onSend s.params.chunkMax seg = some (a, tr)) : step s = .next (send a (offered [seg] tr s)) := by
  refine step_of_transportTurn s _ (.inl hturns) (by simp [hphase]) ?_
  rw [afterTurn_of_nil s hturns]
  exact (transportStep_next s _).mpr (.inl ⟨hphase, seg, (a, tr), hseg, hsend, rfl⟩)

/-- The FRAMER posts its receive. -/
theorem step_of_free_issueReceive (s : State) (hturns : s.turns = []) (hphase : s.phase = .sent) :
    step s = .next (issueReceive s) := by
  rw [step_of_noTurn s hturns, afterTurn_of_nil s hturns, freeMove, if_pos hphase, framerMove, if_pos hphase]

/-- The TRANSPORT answers the receive. -/
theorem step_of_answered_receive (s : State) (b : RecvAnswer) (tr : Transport) (hturns : s.turns = [])
    (hphase : s.phase = .awaitingReply) (hrecv : s.transport.onRecv s.sReg.toNat = some (b, tr)) :
    step s = receive b (offered [] tr s) := by
  rw [step_of_transportTurn s _ (.inl hturns) (by simp [hphase]) (transportStep_of_onRecv (afterTurn s) b tr hphase hrecv),
    afterTurn_of_nil s hturns]

/-! How a transaction ends. -/

/-- `v` is the end of a transaction with response `word`: VALIDATED when that says OK and FAILED otherwise, with the agents, the
parameters and the HOST's buffers as in `w`. -/
structure EndsWith (w : State) (word : Word) (v : State) : Prop where
  surroundings : sameSurroundings w v
  txbuf        : v.txbuf = w.txbuf
  rxbuf        : v.rxbuf = w.rxbuf
  resp         : v.resp = word
  phase        : v.phase = if respResult word = 0#3 then .validated else .failed

/-- The end does not depend on the rest of the state it is compared with. -/
theorem EndsWith.of_same {w w' v : State} {word : Word} (h : EndsWith w word v) (hs : sameSurroundings w' w)
    (htx : w.txbuf = w'.txbuf) (hrx : w.rxbuf = w'.rxbuf) : EndsWith w' word v := by
  obtain ⟨⟨hp, hl, hh, ht, hw, hu⟩, htx', hrx', hresp, hphase⟩ := h
  obtain ⟨hp', hl', hh', ht', hw', hu'⟩ := hs
  exact ⟨⟨hp.trans hp', hl.trans hl', hh.trans hh', ht.trans ht', hw.trans hw', hu.trans hu'⟩, htx'.trans htx, hrx'.trans hrx,
    hresp, hphase⟩

theorem endsWith_raise (r : Result) (sub : BitVec 4) (v : Byte) (w : State) (n : Half) (hr : r ≠ .ok)
    (hn : w.chunksDone = n) :
    EndsWith w (packResp r w.diag sub (if r = .remoteNack then v else 0#8) 0#8 n) (raise r sub v w) := by
  subst hn
  refine ⟨⟨rfl, rfl, rfl, rfl, rfl, rfl⟩, rfl, rfl, rfl, ?_⟩
  rw [respResult_packResp]
  cases r with
  | ok => exact absurd rfl hr
  | invalidArgument | transportError | shortResponse | remoteNack | resourceError => rfl

theorem endsWith_finish (d : Byte) (w : State) (n : Half) (hn : w.chunksDone = n) :
    EndsWith w (packResp .ok w.diag 0#4 0#8 d n) (finish d w) := by
  subst hn
  exact ⟨⟨rfl, rfl, rfl, rfl, rfl, rfl⟩, rfl, rfl, rfl, by rw [respResult_packResp]; rfl⟩

/-! The receive of a transaction of one segment. -/

/-- RDATA of a single-register transaction of `t` bytes that succeeds: byte T - 1 of the reply to a READ (41_single_register.md
R181). -/
def singleRdata (op : Op) (t : Nat) : RecvAnswer → Byte
  | .err => 0#8
  | .bytes r => if op = .read then r.getD (t - 1) 0#8 else 0#8

/-- The registers while the one segment, of `t` bytes, of a single-register frame is under way. -/
structure SingleSegment (t : Nat) (w : State) : Prop where
  op         : w.cur.op.isBurst = false
  pos        : 0 < t
  sReg       : w.sReg.toNat = t
  tReg       : w.tReg.toNat = t
  remReg     : w.remReg = w.sReg
  chunksDone : w.chunksDone = 0#16

theorem statusRequired_of_single (p : BurstWriteStatus) (op : Op) (last : Bool) (h : op.isBurst = false) :
    statusRequired p op last = true := by
  cases op with
  | write | read => rfl
  | burstWrite | burstRead => nomatch h

theorem replyReceived_read (r : List Byte) (s : State) (i : Nat) (hi : i < r.length) :
    (replyReceived r s).rxseg.read i = some (r.getD i 0#8) := by
  simp [Mem.read_writeRange, hi]

/-- The commit of a WRITE or a READ. -/
theorem complete_single (r : List Byte) (w : State) (hw : SingleSegment r.length w) :
    complete (replySettled r w) = .next (finish (singleRdata w.cur.op r.length (.bytes r)) (replySettled r w)) := by
  obtain ⟨hburst, hpos, -, htReg, -, -⟩ := hw
  cases hop : w.cur.op with
  | write => exact (complete_next _ _).mpr (.inl ⟨.inl hop, rfl⟩)
  | read =>
    refine (complete_next _ _).mpr (.inr (.inl ⟨hop, _, ?_, rfl⟩))
    have htReg' : (replySettled r w).tReg.toNat = r.length := htReg
    rw [htReg']
    exact replyReceived_read r w _ (by omega)
  | burstWrite | burstRead =>
    rw [hop] at hburst
    nomatch hburst

/-- A reply of the exact length: the wrong status byte, or the commit. -/
theorem validate_single (r : List Byte) (w : State) (hw : SingleSegment r.length w) :
    validate (replyReceived r w) = .next
      (if r.getD 0 0#8 ≠ 0xFF#8 then raise .remoteNack 1#4 (r.getD 0 0#8) (replyReceived r w)
        else finish (singleRdata w.cur.op r.length (.bytes r)) (replySettled r w)) := by
  have hread : (replyReceived r w).rxseg.read statusOffset = some (r.getD 0 0#8) := replyReceived_read r w 0 hw.pos
  split
  next hv => exact validate_of_wrong_status _ _ hread hv (statusRequired_of_single _ _ _ hw.op)
  next hv =>
    rw [not_not] at hv
    rw [validate_of_status_met _ fun _ => hread.trans (congrArg some hv), acceptSegment_replyReceived r w hw.sReg.symm,
      continueOrComplete, if_pos (replySettled_remReg_of_last r w hw.remReg), complete_single r w hw]

/-- Whatever the answer to the receive, the transaction ends with the response of `singleResponse`. -/
theorem receive_single (b : RecvAnswer) (t : Nat) (w : State) (hw : SingleSegment t w) :
    ∃ v : State, receive b w = .next v ∧ EndsWith w (singleResponse w.diag t (.count t) b (singleRdata w.cur.op t b)) v := by
  have hchunks := hw.chunksDone
  have hcounted : w.chunksDone + 1#16 = 1#16 := by
    rw [hchunks]
    rfl
  have hsReg := hw.sReg
  rw [singleResponse.eq_def, if_neg (not_not.mpr rfl)]
  cases b with
  | err => exact ⟨_, rfl, endsWith_raise .transportError 3#4 0#8 w _ nofun hchunks⟩
  | bytes r =>
    dsimp only
    split_ifs with hshort hlong hstatus
    · exact ⟨_, if_pos (hsReg ▸ hshort), endsWith_raise .shortResponse 1#4 0#8 w _ nofun hchunks⟩
    · exact ⟨_, (if_neg (hsReg ▸ hshort)).trans (if_pos (hsReg ▸ hlong)),
        endsWith_raise .shortResponse 2#4 0#8 w _ nofun hchunks⟩
    all_goals
      obtain rfl : r.length = t := by omega
      refine ⟨_, (receive_of_exact_length r w hsReg.symm).trans (validate_single r w hw), ?_⟩
    · rw [if_pos hstatus]
      exact (endsWith_raise .remoteNack 1#4 _ (replyReceived r w) _ nofun hcounted).of_same ⟨rfl, rfl, rfl, rfl, rfl, rfl⟩ rfl rfl
    · rw [if_neg hstatus]
      exact (endsWith_finish _ (replySettled r w) _ hcounted).of_same ⟨rfl, rfl, rfl, rfl, rfl, rfl⟩ rfl rfl

/-! The transaction from the state after acceptance, and from IDLE. -/

/-- A send that is answered with the full count, and the receive that the FRAMER posts then. -/
theorem run_of_full_send (u : State) (seg : List Byte) (tr : Transport) (k : Nat) (hturns : u.turns = [])
    (hphase : u.phase = .frameBuilt) (hseg : u.txseg.readRange 0 u.sReg.toNat = some seg)
    (hsend : u.transport.onSend u.params.chunkMax seg = some (.count u.sReg.toNat, tr)) :
    Sys2Proof.core.run (k + 2) u = Sys2Proof.core.run k (issueReceive (offered [seg] tr u)) := by
  have hsent : step u = .next { offered [seg] tr u with phase := .sent } :=
    (step_of_answered_send u seg _ tr hturns hphase hseg hsend).trans
      (congrArg Host.Outcome.next ((send_eq_ite _ _).trans (if_pos rfl)))
  have hposted := step_of_free_issueReceive { offered [seg] tr u with phase := .sent } hturns rfl
  exact (run_succ_of_step hsent (k + 1)).trans (run_succ_of_step hposted k)

/-- From the state in which the one segment of a single-register frame is built: three steps, or one when the send is not answered
with the full count. -/
theorem run_of_built (u : State) (seg : List Byte) (a : SendAnswer) (b : RecvAnswer) (tr tr' : Transport)
    (hu : SingleSegment seg.length u) (hturns : u.turns = []) (hphase : u.phase = .frameBuilt)
    (hseg : u.txseg.readRange 0 seg.length = some seg) (hsend : u.transport.onSend u.params.chunkMax seg = some (a, tr))
    (hrecv : tr.onRecv seg.length = some (b, tr')) :
    ∃ v : State, Sys2Proof.core.run (if a = .count seg.length then 3 else 1) u = .next v ∧
      EndsWith (offered [seg] (if a = .count seg.length then tr' else tr) u)
        (singleResponse u.diag seg.length a b (singleRdata u.cur.op seg.length b)) v := by
  have hsReg := hu.sReg
  rw [← hsReg] at hseg
  by_cases ha : a = .count seg.length
  · rw [ha] at hsend ⊢
    rw [if_pos rfl, if_pos rfl]
    have hawaits : SingleSegment seg.length (offered [] tr' (issueReceive (offered [seg] tr u))) :=
      ⟨hu.op, hu.pos, hu.sReg, hu.tReg, hu.remReg, hu.chunksDone⟩
    obtain ⟨v, hv, hend⟩ := receive_single b _ _ hawaits
    have hreceived : step (issueReceive (offered [seg] tr u)) = .next v :=
      (step_of_answered_receive (issueReceive (offered [seg] tr u)) b tr' hturns rfl (hsReg.symm ▸ hrecv)).trans hv
    have hrun : Sys2Proof.core.run 3 u = Sys2Proof.core.run 1 (issueReceive (offered [seg] tr u)) :=
      run_of_full_send u seg tr 1 hturns hphase hseg (hsReg.symm ▸ hsend)
    exact ⟨v, hrun.trans (run_succ_of_step hreceived 0),
      hend.of_same ⟨rfl, rfl, rfl, rfl, List.append_nil _, rfl⟩ rfl rfl⟩
  · rw [if_neg ha, if_neg ha, singleResponse.eq_def, if_pos ha]
    have hfailed : step u = .next (raise .transportError 2#4 0#8 (offered [seg] tr u)) :=
      (step_of_answered_send u seg a tr hturns hphase hseg hsend).trans
        (congrArg Host.Outcome.next ((send_eq_ite _ _).trans (if_neg (hsReg.symm ▸ ha))))
    exact ⟨_, run_succ_of_step hfailed 0, endsWith_raise .transportError 2#4 0#8 _ _ nofun hu.chunksDone⟩

/-- The frame of a single-register command (30_encoding.md R112). -/
def singleFrame : Instr → List Byte
  | .write f => writeFrame f
  | .read f => readFrame f
  | .burstWrite _ => []
  | .burstRead _ => []

theorem length_singleFrame (i : Instr) (hop : i.op.isBurst = false) : (singleFrame i).length = headerLen i.fields.mode + 1 := by
  cases i with
  | write f => simp [singleFrame, writeFrame_eq, length_frameHeader, Instr.fields]
  | read f => simp [singleFrame, readFrame_eq, length_frameHeader, Instr.fields]
  | burstWrite f | burstRead f => nomatch hop

/-- In IDLE with the link up and no turn listed, the HOST is about to present the command `i`. -/
structure Presents (i : Instr) (rest : List HostOp) (s : State) : Prop where
  legal  : s.params.legal
  phase  : s.phase = .idle
  linkUp : s.linkUp = true
  turns  : s.turns = []
  issued : ∃ d, s.host.program = .issue d :: rest ∧ decode d = .ok i

/-- A single-register command is accepted, with its whole frame as the one segment. -/
theorem step_of_presents_single (i : Instr) (rest : List HostOp) (s : State) (hop : i.op.isBurst = false)
    (hs : Presents i rest s) :
    step s = .next (accepted i.op (accessFlag i.op) i.fields (singleFrame i).dropLast (singleFrame i).length (singleFrame i)
      (popHost rest s)) := by
  obtain ⟨hlegal, hidle, hlink, hturns, d, hprog, hdec⟩ := hs
  rw [step_of_free_issue s d rest i hidle hturns hprog hdec]
  cases i with
  | write f => exact writeAccepted f (popHost rest s) hlegal hidle hlink
  | read f => exact readAccepted f (popHost rest s) hlegal hidle hlink
  | burstWrite f | burstRead f => nomatch hop

/-- A single-register command presented in IDLE: the four steps of the transaction, or two when its send is not answered with the
full count. -/
theorem run_of_presents_single (i : Instr) (rest : List HostOp) (s : State) (a : SendAnswer) (b : RecvAnswer)
    (tr tr' : Transport) (hop : i.op.isBurst = false) (hs : Presents i rest s)
    (hsend : s.transport.onSend s.params.chunkMax (singleFrame i) = some (a, tr))
    (hrecv : tr.onRecv (singleFrame i).length = some (b, tr')) :
    ∃ v : State, Sys2Proof.core.run (if a = .count (singleFrame i).length then 4 else 2) s = .next v ∧
      EndsWith (offered [singleFrame i] (if a = .count (singleFrame i).length then tr' else tr) (popHost rest s))
        (singleResponse (maskedBit i.fields) (singleFrame i).length a b (singleRdata i.op (singleFrame i).length b)) v := by
  have hlen := length_singleFrame i hop
  have hheader := headerLen_le i.fields.mode
  have hstep := step_of_presents_single i rest s hop hs
  generalize singleFrame i = seg at *
  have hreg : (BitVec.ofNat 16 seg.length).toNat = seg.length := by
    rw [BitVec.toNat_ofNat]
    omega
  have hseg : (s.txseg.writeRange 0 seg).readRange 0 seg.length = some seg := Mem.readRange_writeRange_self _ 0 seg
  obtain ⟨v, hv, hend⟩ := run_of_built (accepted i.op (accessFlag i.op) i.fields seg.dropLast seg.length seg (popHost rest s)) seg
    a b tr tr' ⟨hop, by omega, hreg, hreg, rfl, rfl⟩ hs.turns rfl hseg hsend hrecv
  refine ⟨v, ?_, hend.of_same ⟨rfl, rfl, rfl, rfl, rfl, rfl⟩ rfl rfl⟩
  rw [← hv, ← run_succ_of_step hstep]
  split <;> rfl

/-- Settles O56: the transaction of one segment, which is the frame of R112. -/
theorem writeTransaction : Obligations.WriteTransaction := by
  intro s d rest f a b sends recvs hlegal hidle hlink hturns hprog hdec htrans
  obtain ⟨v, hv, ⟨-, -, hhost, -, hwire, -⟩, htx, hrx, hresp, hphase⟩ :=
    run_of_presents_single (.write f) rest s a b (.free sends (b :: recvs)) (.free sends recvs) rfl
      ⟨hlegal, hidle, hlink, hturns, d, hprog, hdec⟩ (by rw [htrans]; rfl) rfl
  refine ⟨v, hv, ?_, hresp ▸ hphase, hwire, htx, hrx, hhost⟩
  rw [hresp]
  cases b <;> rfl

/-- Settles O57: the same as for a WRITE, with the reply byte that the commit of a READ takes. -/
theorem readTransaction : Obligations.ReadTransaction := by
  intro s d rest f a b sends recvs hlegal hidle hlink hturns hprog hdec htrans
  obtain ⟨v, hv, ⟨-, -, hhost, -, hwire, -⟩, htx, hrx, hresp, hphase⟩ :=
    run_of_presents_single (.read f) rest s a b (.free sends (b :: recvs)) (.free sends recvs) rfl
      ⟨hlegal, hidle, hlink, hturns, d, hprog, hdec⟩ (by rw [htrans]; rfl) rfl
  refine ⟨v, hv, ?_, hresp ▸ hphase, hwire, htx, hrx, hhost⟩
  rw [hresp]
  cases b <;> rfl

end Sys2Proof.Machine

/-! The reference peer in step and without faults (20_memory.md R76-R79), and a WRITE and a READ of one register against it
(41_single_register.md R182). -/

namespace Sys2Proof.Machine

open Sys2Proof.Config Sys2Proof.Safety

/-! The banks. -/

theorem Bank.get_append_of_ne (b b' : Bank) (k : Nat) (h : ∀ e ∈ b, e.1 ≠ k) : Bank.get (b ++ b') k = Bank.get b' k := by
  induction b with
  | nil => rfl
  | cons e b ih =>
    rw [List.cons_append, Bank.get, if_neg (h e (by simp)), ih fun d hd => h d (by simp [hd])]

/-- SEQ reads back what was written to it. -/
theorem Bank.get_set (b : Bank) (k : Nat) (bs : List Byte) (hbs : bs ≠ []) : (b.set k bs).get k = bs := by
  rw [Bank.set, if_neg hbs, List.append_assoc, Bank.get_append_of_ne, List.singleton_append, Bank.get, if_pos rfl]
  intro e he
  have hlt : e.1 < k := by simpa using (List.mem_filter.mp he).2
  omega

/-- Two frames' header bytes name the same register: the same bank, the same mux target where there is one, the same address. -/
structure SameRegister (h h' : List Byte) : Prop where
  bank : frameMultiplexed h' = frameMultiplexed h
  mux  : frameMultiplexed h = true → byteAt h' 3 = byteAt h 3
  addr : frameAddr h' = frameAddr h

theorem Peer.seq_setSeq (p : Peer) {h h' : List Byte} (bs : List Byte) (hreg : SameRegister h h') (hbs : bs ≠ []) :
    (p.setSeq h bs).seq h' = bs := by
  obtain ⟨hbank, hmux, haddr⟩ := hreg
  rw [Peer.seq, Peer.setSeq, hbank, haddr]
  cases hm : frameMultiplexed h with
  | false => exact Bank.get_set p.seqD _ bs hbs
  | true =>
    rw [hmux hm]
    exact Bank.get_set p.seqM _ bs hbs

/-! A frame of one segment. -/

/-- The peer is at the start of a frame, and its fault script is empty. -/
abbrev Peer.inStep (p : Peer) : Prop := p.faults = [] ∧ p.pos = 0

/-- `seg` is a whole single-register frame, as the peer reads its header (20_memory.md R77). -/
structure IsSingleFrame (seg : List Byte) : Prop where
  kind  : frameKind (seg.take 5) = 1 ∨ frameKind (seg.take 5) = 2
  total : frameTotal (seg.take 5) = seg.length
  body  : frameHeaderLen (seg.take 5) + 1 = seg.length

/-- The peer that has been offered a segment, before the segment arrives (20_memory.md R77). -/
def Peer.offeredNext (p : Peer) : Peer := { p with segNo := p.segNo + 1, reply := none }

theorem Peer.expects_singleFrame (p : Peer) (c : Nat) (seg : List Byte) (hpos : p.pos = 0) (hseg : IsSingleFrame seg)
    (hlen : seg.length ≤ c) : p.expects c (seg.take 5) seg = true := by
  obtain ⟨hkind, htotal, hbody⟩ := hseg
  have hkind' : (frameKind (seg.take 5) == 1 || frameKind (seg.take 5) == 2) = true := by simpa using hkind
  have hsize : min c seg.length = seg.length := by omega
  have hne : 0 < seg.length := by omega
  have hheader : frameHeaderLen (seg.take 5) ≤ seg.length := by omega
  simp [Peer.expects, hkind', hpos, htotal, hbody, hsize, hne, hheader]

/-- The peer after a whole frame of one segment: the frame has had its effect, and the next frame begins (20_memory.md R76). -/
def Peer.afterFrame (p : Peer) (seg : List Byte) : Peer :=
  { p.offeredNext.effect (seg.take 5) seg with head := seg.take 5, reply := none, pos := 0 }

/-- The reply to a whole frame of one segment (20_memory.md R78-R81). -/
def Peer.frameReply (p : Peer) (seg : List Byte) : List Byte := p.offeredNext.replyTo (seg.take 5) seg

theorem Peer.effect_faults (p : Peer) (head seg : List Byte) : (p.effect head seg).faults = p.faults := by
  unfold Peer.effect Peer.setSeq
  split_ifs <;> rfl

/-- A peer in step is in step after a frame. -/
theorem Peer.afterFrame_inStep (p : Peer) (seg : List Byte) (hp : p.inStep) : (p.afterFrame seg).inStep :=
  ⟨(Peer.effect_faults ..).trans hp.1, rfl⟩

theorem Peer.arrive_singleFrame (p : Peer) (c : Nat) (seg : List Byte) (hpos : p.pos = 0) (hseg : IsSingleFrame seg)
    (hlen : seg.length ≤ c) :
    p.offeredNext.arrive c seg = { p.afterFrame seg with reply := some (p.frameReply seg) } := by
  have hhead : p.offeredNext.headFor seg = seg.take 5 := if_pos hpos
  have hnext : nextPos p.offeredNext.pos seg.length (frameTotal (seg.take 5)) = 0 :=
    if_pos (hseg.total.le.trans (Nat.le_add_left _ _))
  simp only [Peer.arrive, hhead, hnext, Peer.expects_singleFrame p.offeredNext c seg hpos hseg hlen, if_true]
  rfl

/-- A peer in step takes a whole single-register frame (20_memory.md R77). -/
theorem Peer.onSend_singleFrame (p : Peer) (c : Nat) (seg : List Byte) (hp : p.inStep) (hseg : IsSingleFrame seg)
    (hlen : seg.length ≤ c) :
    (Transport.peer p).onSend c seg =
      some (.count seg.length, .peer { p.afterFrame seg with reply := some (p.frameReply seg) }) := by
  obtain ⟨hfaults, hpos⟩ := hp
  have hscript : sendFault p.segNo p.faults = none := by rw [hfaults]; rfl
  have hsend : p.onSend c seg = (.count seg.length, p.offeredNext.arrive c seg) := by
    simp only [Peer.onSend, hscript]
    rfl
  rw [Transport.onSend, hsend, Peer.arrive_singleFrame p c seg hpos hseg hlen]

/-- It answers the receive with its reply. -/
theorem Peer.onRecv_singleFrame (p : Peer) (n : Nat) (seg : List Byte) (hp : p.inStep) :
    (Transport.peer { p.afterFrame seg with reply := some (p.frameReply seg) }).onRecv n =
      some (.bytes (p.frameReply seg), .peer (p.afterFrame seg)) := by
  have hfaults := (Peer.afterFrame_inStep p seg hp).1
  rw [Transport.onRecv, Peer.onRecv_of_no_fault _ _ (by simp [faultsAt, hfaults])]
  rfl

/-! The frames of a WRITE and of a READ, as the peer reads them. -/

@[simp] theorem frameKind_cons (b : Byte) (bs : List Byte) : frameKind (b :: bs) = (b.extractLsb' 0 4).toNat := rfl

@[simp] theorem frameMultiplexed_cons (b : Byte) (bs : List Byte) : frameMultiplexed (b :: bs) = b.getLsbD 4 := rfl

@[simp] theorem frameTotal_cons (b hi lo : Byte) (bs : List Byte) :
    frameTotal (b :: hi :: lo :: bs) = hi.toNat * 256 + lo.toNat := rfl

@[simp] theorem frameHeaderLen_cons (b : Byte) (bs : List Byte) :
    frameHeaderLen (b :: bs) = if b.getLsbD 4 then 5 else 4 := rfl

theorem isSingleFrame_writeFrame (f : Fields) : IsSingleFrame (writeFrame f) := by
  unfold writeFrame
  cases f.mode <;> constructor <;> simp

theorem isSingleFrame_readFrame (f : Fields) : IsSingleFrame (readFrame f) := by
  unfold readFrame
  cases f.mode <;> constructor <;> simp

/-- A WRITE and a READ with the same MODE, MUX and ADDR name the same register: W is not part of the address. -/
theorem sameRegister_write_read (f g : Fields) (hmode : g.mode = f.mode) (hmux : g.mux = f.mux) (haddr : g.addr = f.addr) :
    SameRegister ((writeFrame f).take 5) ((readFrame g).take 5) := by
  have hlow : (f.addr &&& 0x7F#8).extractLsb' 0 7 = (0x80#8 ||| (f.addr &&& 0x7F#8)).extractLsb' 0 7 := by
    rw [BitVec.extractLsb'_or]
    exact BitVec.zero_or.symm
  unfold writeFrame readFrame
  rw [hmode, hmux, haddr]
  cases f.mode <;> constructor <;> simp [frameAddr, byteAt, hlow]

/-- A WRITE leaves WDATA in the register it names (20_memory.md R78). -/
theorem Peer.seq_afterFrame_writeFrame (p : Peer) (f : Fields) {h : List Byte} (hreg : SameRegister ((writeFrame f).take 5) h) :
    (p.afterFrame (writeFrame f)).seq h = [f.wdata] := by
  have hkind : frameKind ((writeFrame f).take 5) = 1 := by
    unfold writeFrame
    cases f.mode <;> simp
  have hdata : byteAt (writeFrame f) (frameHeaderLen ((writeFrame f).take 5)) = f.wdata := by
    unfold writeFrame
    cases f.mode <;> simp [byteAt]
  have heffect : p.offeredNext.effect ((writeFrame f).take 5) (writeFrame f) =
      p.offeredNext.setSeq ((writeFrame f).take 5) [f.wdata] := (if_pos hkind).trans (by rw [hdata])
  rw [← Peer.seq_setSeq p.offeredNext [f.wdata] hreg (by simp), ← heffect]
  rfl

/-- The reply to a WRITE has the frame's length and the success marker (20_memory.md R78). -/
theorem Peer.frameReply_writeFrame (p : Peer) (f : Fields) :
    (p.frameReply (writeFrame f)).length = (writeFrame f).length ∧ (p.frameReply (writeFrame f)).getD 0 0#8 = 0xFF#8 := by
  unfold writeFrame
  cases f.mode <;> simp [Peer.frameReply, Peer.replyTo, successMarker, zeros]

/-- The reply to a READ also ends with the first byte of the register (20_memory.md R79). -/
theorem Peer.frameReply_readFrame (p : Peer) (f : Fields) :
    (p.frameReply (readFrame f)).length = (readFrame f).length ∧ (p.frameReply (readFrame f)).getD 0 0#8 = 0xFF#8 ∧
      (p.frameReply (readFrame f)).getD ((readFrame f).length - 1) 0#8 = byteAt (p.seq ((readFrame f).take 5)) 0 := by
  have hseq : p.offeredNext.seq = p.seq := rfl
  unfold readFrame
  cases f.mode <;> simp [Peer.frameReply, Peer.replyTo, successMarker, zeros, hseq]

/-! A single-register command and its response handshake, against the peer. -/

/-- A reply with the frame's length and the success marker ends the transaction with OK. -/
theorem singleResponse_of_reply (diag : BitVec 1) (r : List Byte) (rdata : Byte) (hmark : r.getD 0 0#8 = 0xFF#8) :
    singleResponse diag r.length (.count r.length) (.bytes r) rdata = packResp .ok diag 0#4 0#8 rdata 1#16 := by
  rw [singleResponse.eq_def, if_neg (not_not.mpr rfl)]
  simp only [lt_irrefl, if_false, hmark, ne_eq, not_true_eq_false]

/-- The five steps of a single-register command and its response handshake, with the peer in step. -/
theorem run_of_single_with_peer (i : Instr) (rest : List HostOp) (s : State) (p : Peer) (hop : i.op.isBurst = false)
    (hs : Presents i (.takeResponse :: rest) s) (htrans : s.transport = .peer p) (hp : p.inStep)
    (hseg : IsSingleFrame (singleFrame i)) (hlen : (p.frameReply (singleFrame i)).length = (singleFrame i).length)
    (hmark : (p.frameReply (singleFrame i)).getD 0 0#8 = 0xFF#8) :
    ∃ t : State, Sys2Proof.core.run 5 s = .next t ∧ t.params = s.params ∧ t.linkUp = s.linkUp ∧ t.phase = .idle ∧ t.turns = [] ∧
      t.transport = .peer (p.afterFrame (singleFrame i)) ∧
      t.host = ⟨rest, s.host.answers ++ [.response (packResp .ok (maskedBit i.fields) 0#4 0#8
        (singleRdata i.op (singleFrame i).length (.bytes (p.frameReply (singleFrame i)))) 1#16)]⟩ := by
  have hfits : (singleFrame i).length ≤ s.params.chunkMax := by
    have hlength := length_singleFrame i hop
    have hheader := headerLen_le i.fields.mode
    obtain ⟨⟨hC, -⟩, -⟩ := hs.legal
    omega
  obtain ⟨v, hv, ⟨hparams, hlink, hhost, htrans', -, hturns⟩, -, -, hresp, hphase⟩ :=
    run_of_presents_single i _ s _ _ _ _ hop hs (by rw [htrans]; exact Peer.onSend_singleFrame p _ _ hp hseg hfits)
      (Peer.onRecv_singleFrame p _ _ hp)
  have hhost' : v.host = ⟨.takeResponse :: rest, s.host.answers⟩ := hhost
  have hok := singleResponse_of_reply (maskedBit i.fields) (p.frameReply (singleFrame i))
    (singleRdata i.op (singleFrame i).length (.bytes (p.frameReply (singleFrame i)))) hmark
  rw [hlen] at hok
  rw [hok] at hresp hphase
  rw [respResult_packResp] at hphase
  rw [if_pos rfl] at hv htrans'
  have htaken := step_of_free_takeResponse v rest hphase (hturns.trans hs.turns) (congrArg HostAgent.program hhost')
  refine ⟨_, (run_add 4 1 hv).trans (run_succ_of_step htaken 0), hparams, hlink, rfl, hturns.trans hs.turns, htrans', ?_⟩
  rw [respondAccept, enterIdle_host, answerHost_host, popHost_host, popHost_resp, hresp, hhost']

/-- A WRITE and then a READ that names the same register, with their handshakes: both end OK, and the READ gives WDATA. -/
theorem run_of_write_then_read (f g : Fields) (s : State) (p : Peer)
    (hs : Presents (.write f) [.takeResponse, .issue (encode (.read g)), .takeResponse] s) (htrans : s.transport = .peer p)
    (hp : p.inStep) (hreg : SameRegister ((writeFrame f).take 5) ((readFrame g).take 5)) :
    ∃ (t : State) (x y : Word), Sys2Proof.core.run 10 s = .next t ∧ finished t ∧
      t.host.answers = s.host.answers ++ [.response x, .response y] ∧ respResult x = 0#3 ∧ respResult y = 0#3 ∧
      respRdata y = f.wdata := by
  obtain ⟨hwlen, hwmark⟩ := Peer.frameReply_writeFrame p f
  obtain ⟨t, ht, htparams, htlink, htidle, htturns, httrans, hthost⟩ :=
    run_of_single_with_peer (.write f) _ s p rfl hs htrans hp (isSingleFrame_writeFrame f) hwlen hwmark
  have ht' : Presents (.read g) [.takeResponse] t :=
    ⟨htparams ▸ hs.legal, htidle, htlink.trans hs.linkUp, htturns, _, congrArg HostAgent.program hthost, decodeInvertsEncode _⟩
  obtain ⟨hrlen, hrmark, hrdata⟩ := Peer.frameReply_readFrame (p.afterFrame (writeFrame f)) g
  obtain ⟨u, hu, -, -, huidle, -, -, huhost⟩ :=
    run_of_single_with_peer (.read g) [] t _ rfl ht' httrans (Peer.afterFrame_inStep p (writeFrame f) hp)
      (isSingleFrame_readFrame g) hrlen hrmark
  rw [hthost, List.append_assoc] at huhost
  refine ⟨u, _, _, (run_add 5 5 ht).trans hu, ⟨congrArg HostAgent.program huhost, huidle⟩, congrArg HostAgent.answers huhost,
    respResult_packResp .ok .., respResult_packResp .ok .., ?_⟩
  have hstored : byteAt ((p.afterFrame (writeFrame f)).seq ((readFrame g).take 5)) 0 = f.wdata := by
    rw [Peer.seq_afterFrame_writeFrame p f hreg]
    rfl
  exact (respRdata_packResp ..).trans (hrdata.trans hstored)

/-- Settles O59: the WRITE and the READ name the same register, as MODE, MUX and ADDR agree. -/
theorem singleRegisterRoundTrip : Obligations.SingleRegisterRoundTrip :=
  fun s p m mux addr data w n n' hlegal hidle hlink hturns htrans hfaults hpos hprog =>
    run_of_write_then_read ⟨m, mux, addr, data, n⟩ ⟨m, mux, addr, w, n'⟩ s p
      ⟨hlegal, hidle, hlink, hturns, _, hprog, decodeInvertsEncode _⟩ htrans ⟨hfaults, hpos⟩
      (sameRegister_write_read _ _ rfl rfl rfl)

end Sys2Proof.Machine

/-! The segments of a frame, in the sizes of 42_burst.md R200, are the frame (R201-R203). -/

namespace Sys2Proof.Machine

open Sys2Proof.Safety

/-- Segment k of a string of bytes that is cut every `c` bytes (42_burst.md R200). -/
def segmentOf (c : Nat) (bs : List Byte) (k : Nat) : List Byte := (bs.drop (k * c)).take c

@[simp] theorem length_segmentOf (c : Nat) (bs : List Byte) (k : Nat) :
    (segmentOf c bs k).length = sizeOfSegment c bs.length k := by
  simp [segmentOf, sizeOfSegment]

/-- The segments, one after the other, are the string up to where the last of them ends. -/
theorem flatten_segmentOf (c : Nat) (bs : List Byte) (k : Nat) :
    ((List.range k).map (segmentOf c bs)).flatten = bs.take (k * c) := by
  induction k with
  | zero => simp
  | succ k ih =>
    rw [List.range_succ, List.map_append, List.flatten_append, ih, Nat.succ_mul, List.take_add]
    simp [segmentOf]

/-- Segment k is there exactly when it starts inside the string. -/
theorem lt_segmentCount (c t k : Nat) (hc : 0 < c) : k < segmentCount c t ↔ k * c < t := by
  rw [segmentCount, ← Nat.add_one_le_iff, Nat.le_div_iff_mul_le hc, Nat.add_one_mul]
  omega

theorem segmentCount_le (c t k : Nat) (hc : 0 < c) : segmentCount c t ≤ k ↔ t ≤ k * c := by
  rw [← not_lt, lt_segmentCount c t k hc, not_lt]

theorem sizeOfSegment_pos (c t k : Nat) (hc : 0 < c) (hk : k * c < t) : 1 ≤ sizeOfSegment c t k := by
  rw [sizeOfSegment]
  omega

/-- Every segment but the last has C bytes. -/
theorem sizeOfSegment_of_middle (c t k : Nat) (hk : (k + 1) * c < t) : sizeOfSegment c t k = c := by
  rw [Nat.add_one_mul] at hk
  rw [sizeOfSegment]
  omega

/-- The last segment has T mod C bytes, or C when C divides T. -/
theorem sizeOfSegment_last (c t : Nat) (hc : 0 < c) (ht : 0 < t) :
    sizeOfSegment c t (segmentCount c t - 1) = if t % c = 0 then c else t % c := by
  have hpos : 0 < segmentCount c t := (lt_segmentCount c t 0 hc).mpr (by omega)
  obtain ⟨k, hk⟩ : ∃ k, segmentCount c t = k + 1 := Nat.exists_eq_add_one.mpr hpos
  have hlo : k * c < t := (lt_segmentCount c t k hc).mp (by omega)
  have hhi : t ≤ (k + 1) * c := (segmentCount_le c t (k + 1) hc).mp hk.le
  rw [Nat.add_one_mul] at hhi
  have hmod : t % c = (t - k * c) % c := by
    conv_lhs => rw [← Nat.sub_add_cancel hlo.le, Nat.add_mul_mod_self_right]
  have hsize : sizeOfSegment c t k = t - k * c := by
    rw [sizeOfSegment]
    omega
  rw [hk, Nat.add_sub_cancel, hsize, hmod]
  rcases (show t - k * c ≤ c by omega).eq_or_lt with hfull | hpart
  · simp [hfull]
  · rw [Nat.mod_eq_of_lt hpart, if_neg (by omega)]

theorem mapM_eq_some_map {α β : Type} {l : List α} {f : α → Option β} {g : α → β} (h : ∀ x ∈ l, f x = some (g x)) :
    l.mapM f = some (l.map g) := by
  induction l with
  | nil => rfl
  | cons x l ih => simp [h x (by simp), ih fun y hy => h y (by simp [hy])]

/-- Any range of request bytes inside a frame is that range of the frame. -/
theorem requestBytes_slice (s : State) (frame : List Byte) (t g n : Nat) (hH : s.hReg.toNat ≤ 5) (htx : s.txbuf.wf)
    (hframe : requestBytes s 0 t = some frame) (hn : g + n ≤ t) : requestBytes s g n = some ((frame.drop g).take n) := by
  have hserial (g n : Nat) := segmentBytesAreSerializerBytes s g n hH htx
  rw [hserial, mapM_range'_eq_some] at hframe ⊢
  obtain ⟨hlen, hbyte⟩ := hframe
  refine ⟨by simp; omega, fun j hj => ?_⟩
  have hpos := hbyte (g + j) (by omega)
  rw [Nat.zero_add] at hpos
  rw [hpos, List.getElem?_take_of_lt hj, List.getElem?_drop]

/-- The bytes of segment k are that segment of the frame. -/
theorem requestBytes_segmentOf (s : State) (frame : List Byte) (c k : Nat) (hH : s.hReg.toNat ≤ 5) (htx : s.txbuf.wf)
    (hframe : requestBytes s 0 frame.length = some frame) (hk : k * c < frame.length) :
    requestBytes s (k * c) (sizeOfSegment c frame.length k) = some (segmentOf c frame k) := by
  have hin : k * c + sizeOfSegment c frame.length k ≤ frame.length := by
    rw [sizeOfSegment]
    omega
  rw [requestBytes_slice s frame _ _ _ hH htx hframe hin, segmentOf, sizeOfSegment, ← List.length_drop, ← List.take_eq_take_min]

/-- After its header a frame is the body bytes. -/
theorem bodyBytes_of_requestBytes (s : State) (frame : List Byte) (t : Nat) (hH : s.hReg.toNat ≤ 5) (ht : s.hReg.toNat ≤ t)
    (hframe : requestBytes s 0 t = some frame) : bodyBytes s 0 (t - s.hReg.toNat) = some (frame.drop s.hReg.toNat) := by
  rw [requestBytes_zero s t ht hH] at hframe
  obtain ⟨body, hbody, rfl⟩ := Option.map_eq_some_iff.mp hframe
  have hlen : (s.hdr.toList.take s.hReg.toNat).length = s.hReg.toNat := by simpa [Hdr.toList] using hH
  rw [hbody, List.drop_left' hlen]

/-- Settles O11: each segment is the part of the frame from K * C on, and the parts cover it. -/
theorem segmentsTileTheFrame : Obligations.SegmentsTileTheFrame := by
  intro s frame hlegal hH htx ht hframe
  obtain ⟨⟨hC, -⟩, -⟩ := hlegal
  have hc : 0 < s.params.chunkMax := by omega
  have hlen := length_of_requestBytes s _ _ frame hframe
  rw [← hlen] at hframe ht ⊢
  generalize s.params.chunkMax = c at hc
  refine ⟨fun k hk => ⟨?_, min_le_left _ _⟩, sizeOfSegment_last c _ hc (by omega), ?_, fun hop => ?_⟩
  · exact sizeOfSegment_pos c _ k hc ((lt_segmentCount c _ k hc).mp hk)
  · have hsegments : (List.range (segmentCount c frame.length)).mapM
        (fun k => requestBytes s (k * c) (sizeOfSegment c frame.length k)) =
          some ((List.range (segmentCount c frame.length)).map (segmentOf c frame)) := by
      refine mapM_eq_some_map fun k hk => ?_
      exact requestBytes_segmentOf s frame c k hH htx hframe ((lt_segmentCount c _ k hc).mp (List.mem_range.mp hk))
    rw [hsegments, Option.map_some, flatten_segmentOf, List.take_of_length_le ((segmentCount_le c _ _ hc).mp le_rfl)]
  · have hbody := bodyBytes_of_requestBytes s frame _ hH ht.le hframe
    rwa [bodyBytes, hop] at hbody

end Sys2Proof.Machine

/-! A whole transaction of any number of segments, in the order of the agents with no turn listed (log 3): every segment is sent in
full and answered by a reply that passes its check (42_burst.md R200-R205). -/

namespace Sys2Proof.Machine

open Sys2Proof.Config Sys2Proof.Safety

/-! A byte array that is filled from index 0 on. -/

/-- `bs` stands in `m` from index 0 on; what the array holds besides, in whatever order, has larger indexes. -/
def Mem.StartsWith (m : Mem) (bs : List Byte) : Prop :=
  ∃ others : Mem, m = Mem.cells 0 bs ++ others ∧ ∀ c ∈ others, bs.length ≤ c.1

theorem Mem.startsWith_nil (m : Mem) : m.StartsWith [] := ⟨m, rfl, fun _ _ => Nat.zero_le _⟩

theorem Mem.cells_append (i : Nat) (bs ds : List Byte) :
    Mem.cells i (bs ++ ds) = Mem.cells i bs ++ Mem.cells (i + bs.length) ds := by
  induction bs generalizing i with
  | nil => rfl
  | cons b bs ih =>
    rw [List.cons_append, Mem.cells, Mem.cells, ih, List.cons_append, List.length_cons, Nat.add_right_comm, Nat.add_assoc]

/-- The next bytes go right behind the ones that are there. -/
theorem Mem.StartsWith.writeRange {m : Mem} {bs : List Byte} (h : m.StartsWith bs) (ds : List Byte) :
    (m.writeRange bs.length ds).StartsWith (bs ++ ds) := by
  obtain ⟨others, rfl, hothers⟩ := h
  have hcells (c : Host.Cell) (hc : c ∈ Mem.cells 0 bs) : c.1 < bs.length := by
    have := Mem.mem_cells bs 0 c hc
    omega
  have hbelow : (Mem.cells 0 bs ++ others).filter (fun c => c.1 < bs.length) = Mem.cells 0 bs := by
    rw [List.filter_append, List.filter_eq_self.mpr fun c hc => by simpa using hcells c hc,
      List.filter_eq_nil_iff.mpr fun c hc => by simpa using hothers c hc, List.append_nil]
  refine ⟨_, by rw [Mem.writeRange, hbelow, Mem.cells_append, Nat.zero_add], fun c hc => ?_⟩
  rw [List.length_append]
  simpa using (List.mem_filter.mp hc).2

theorem Mem.StartsWith.readRange {m : Mem} {bs : List Byte} (h : m.StartsWith bs) : m.readRange 0 bs.length = some bs := by
  obtain ⟨others, rfl, -⟩ := h
  have hall (m : Mem) : m.dropWhile (fun c => c.1 < 0) = m := by cases m <;> simp
  rw [Mem.readRange, hall, Mem.readRun_cells_append]

/-! The replies to the segments. -/

/-- The first k replies, one after the other. -/
def received (reply : Nat → List Byte) (k : Nat) : List Byte := ((List.range k).map reply).flatten

theorem received_succ (reply : Nat → List Byte) (k : Nat) : received reply (k + 1) = received reply k ++ reply k := by
  simp [received, List.range_succ]

/-- Replies of the exact length cover the frame as its segments do. -/
theorem length_received (reply : Nat → List Byte) (c t k : Nat) (h : ∀ j < k, (reply j).length = sizeOfSegment c t j) :
    (received reply k).length = min (k * c) t := by
  induction k with
  | zero => simp [received]
  | succ k ih =>
    rw [received_succ, List.length_append, ih fun j hj => h j (by omega), h k (by omega), sizeOfSegment, Nat.add_one_mul]
    omega

/-! An exchange: the frame of a command, the replies to its segments, and the TRANSPORT before each of them. -/

/-- From `s`, with no turn listed, the TRANSPORT takes every segment of `frame` in full and answers its receive with a reply of the
segment's length and, where one is required, the success marker; `tr k` is the TRANSPORT before segment k. -/
structure Exchange (s : State) (op : Op) (frame : List Byte) (reply : Nat → List Byte) (tr : Nat → Transport) : Prop where
  legal    : s.params.legal
  turns    : s.turns = []
  txbuf    : s.txbuf.wf
  start    : s.transport = tr 0
  answered : ∀ k, k * s.params.chunkMax < frame.length → ∃ mid,
    (tr k).onSend s.params.chunkMax (segmentOf s.params.chunkMax frame k) =
        some (.count (sizeOfSegment s.params.chunkMax frame.length k), mid) ∧
      mid.onRecv (sizeOfSegment s.params.chunkMax frame.length k) = some (.bytes (reply k), tr (k + 1))
  length   : ∀ k, k * s.params.chunkMax < frame.length → (reply k).length = sizeOfSegment s.params.chunkMax frame.length k
  marker   : ∀ k, k * s.params.chunkMax < frame.length →
    statusRequired s.params.burstWriteStatus op (frame.length ≤ (k + 1) * s.params.chunkMax) = true →
      (reply k).head? = some successMarker

/-- The events of a transaction from `s` whose first `n` segments have been built (60_exceptions.md R264). -/
def exchangeEvents (s : State) (f : Fields) (t n : Nat) : List DiagEvent :=
  s.events ++ (if f.addr.getLsbD 7 then [.addrMasked f.addr] else []) ++
    (List.range n).map (fun k => .frameBuilt (BitVec.ofNat 16 k) (BitVec.ofNat 16 (sizeOfSegment s.params.chunkMax t k)))

theorem exchangeEvents_succ (s : State) (f : Fields) (t n : Nat) :
    exchangeEvents s f t (n + 1) = exchangeEvents s f t n ++
      [.frameBuilt (BitVec.ofNat 16 n) (BitVec.ofNat 16 (sizeOfSegment s.params.chunkMax t n))] := by
  simp only [exchangeEvents, List.range_succ, List.map_append, List.map_singleton, List.append_assoc]

/-- The segments before segment k. -/
def segmentsBefore (c : Nat) (frame : List Byte) (k : Nat) : List (List Byte) := (List.range k).map (segmentOf c frame)

/-- In the exchange that began with the acceptance of `i` in `s`, segment k is built and all before it are done with. -/
structure Underway (s : State) (i : Instr) (frame : List Byte) (reply : Nat → List Byte) (tr : Nat → Transport) (k : Nat)
    (u : State) : Prop where
  surroundings : sameSurroundings (offered (segmentsBefore s.params.chunkMax frame k) (tr k) s) u
  phase        : u.phase = .frameBuilt
  held         : transactionHeld u
  cur          : u.cur = latchCur i.op i.fields
  diag         : u.diag = maskedBit i.fields
  kReg         : u.kReg.toNat = k
  bytes        : requestBytes u 0 u.tReg.toNat = some frame
  txbuf        : u.txbuf = s.txbuf
  rxbuf        : u.rxbuf = s.rxbuf
  staged       : i.op = .burstRead → u.stg.StartsWith ((received reply k).drop (headerLen i.fields.mode))
  events       : u.events = exchangeEvents s i.fields frame.length (k + 1)

/-- The exchange has ended well (40_transaction.md R152). -/
structure Completed (s : State) (i : Instr) (frame : List Byte) (reply : Nat → List Byte) (tr : Nat → Transport) (n : Nat)
    (v : State) : Prop where
  surroundings : sameSurroundings (offered (segmentsBefore s.params.chunkMax frame n) (tr n) s) v
  phase        : v.phase = .validated
  resp         : v.resp = packResp .ok (maskedBit i.fields) 0#4 0#8
    (if i.op = .read then (received reply n).getD (frame.length - 1) 0#8 else 0#8) (BitVec.ofNat 16 n)
  txbuf        : v.txbuf = s.txbuf
  committed    : i.op = .burstRead →
    (∀ j < i.fields.n.toNat, v.rxbuf.read j = (received reply n)[headerLen i.fields.mode + j]?) ∧
      ∀ j, i.fields.n.toNat ≤ j → v.rxbuf.read j = s.rxbuf.read j
  rxbuf        : i.op ≠ .burstRead → v.rxbuf = s.rxbuf
  events       : v.events = exchangeEvents s i.fields frame.length n

/-- The state in which the reply to segment k has been taken and settled. -/
def afterReply (c : Nat) (frame : List Byte) (reply : Nat → List Byte) (tr : Nat → Transport) (k : Nat) (u : State) : State :=
  replySettled (reply k) (issueReceive (offered [segmentOf c frame k] (tr (k + 1)) u))

/-- The three steps of a round trip: the answer to the send, IssueReceive, and the answer to the receive. -/
theorem run_of_roundTrip (u : State) (seg r : List Byte) (mid tr : Transport) {v : State} (hturns : u.turns = [])
    (hphase : u.phase = .frameBuilt) (hseg : u.txseg.readRange 0 u.sReg.toNat = some seg)
    (hsend : u.transport.onSend u.params.chunkMax seg = some (.count u.sReg.toNat, mid))
    (hrecv : mid.onRecv u.sReg.toNat = some (.bytes r, tr)) (hlen : r.length = u.sReg.toNat)
    (hmark : statusRequired u.params.burstWriteStatus u.cur.op (u.remReg = u.sReg) = true → r.head? = some successMarker)
    (hv : continueOrComplete (replySettled r (issueReceive (offered [seg] tr u))) = .next v) :
    Sys2Proof.core.run 3 u = .next v := by
  have hsame : offered [] tr (afterTurn (issueReceive (offered [seg] mid u))) = issueReceive (offered [seg] tr u) := by
    rw [afterTurn_of_nil (issueReceive (offered [seg] mid u)) hturns]
    simp [offered, issueReceive]
  have hreplied : step (issueReceive (offered [seg] mid u)) = .next v := by
    rw [step_of_passed_reply (issueReceive (offered [seg] mid u)) r tr (.inl hturns) rfl hrecv hlen hmark, hsame, hv]
  exact (run_of_full_send u seg mid 1 hturns hphase hseg hsend).trans (run_succ_of_step hreplied 0)

section

variable {s u : State} {i : Instr} {frame : List Byte} {reply : Nat → List Byte} {tr : Nat → Transport} {k : Nat}

theorem Underway.busy (h : Underway s i frame reply tr k u) : u.phase.busy = true := by
  rw [h.phase]
  rfl

theorem Underway.geometry (h : Underway s i frame reply tr k u) : transactionGeometry u := by
  obtain ⟨hgeom, -, -⟩ := h.held
  exact hgeom

theorem Underway.params (h : Underway s i frame reply tr k u) : u.params = s.params := by
  obtain ⟨hparams, -⟩ := h.surroundings
  exact hparams

theorem Underway.legal (h : Underway s i frame reply tr k u) (he : Exchange s i.op frame reply tr) : u.params.legal := by
  rw [h.params]
  exact he.legal

theorem Underway.tReg (h : Underway s i frame reply tr k u) : u.tReg.toNat = frame.length :=
  (length_of_requestBytes _ _ _ _ h.bytes).symm

theorem Underway.segmentStart (h : Underway s i frame reply tr k u) : segmentStart u = k * s.params.chunkMax := by
  rw [Machine.segmentStart, h.kReg, h.params]

/-- The registers while segment k is under way, in the terms of 42_burst.md R200. -/
theorem Underway.registers (h : Underway s i frame reply tr k u) :
    k * s.params.chunkMax < frame.length ∧ u.remReg.toNat = frame.length - k * s.params.chunkMax ∧
      u.sReg.toNat = sizeOfSegment s.params.chunkMax frame.length k ∧ u.hReg.toNat = headerLen i.fields.mode ∧
      frame.length = frameLen i.op i.fields.mode i.fields.n ∧ u.chunksDone = u.kReg := by
  obtain ⟨hH, hT, -, -, -, hstart, hrem, hsize, hchunks⟩ := h.geometry h.busy
  rw [h.tReg, h.segmentStart] at hrem hstart
  rw [h.tReg, h.cur] at hT
  rw [segmentSize, hrem, h.params] at hsize
  rw [h.cur] at hH
  exact ⟨hstart, hrem, hsize, hH, hT, hchunks⟩

/-- The bytes of any segment of the frame can be built at any time. -/
theorem Underway.requestBytes_segmentOf (h : Underway s i frame reply tr k u) (he : Exchange s i.op frame reply tr) (j : Nat)
    (hj : j * s.params.chunkMax < frame.length) :
    requestBytes u (j * s.params.chunkMax) (sizeOfSegment s.params.chunkMax frame.length j) =
      some (segmentOf s.params.chunkMax frame j) := by
  obtain ⟨-, -, -, hH, -⟩ := h.registers
  have hbytes := h.bytes
  rw [h.tReg] at hbytes
  exact Machine.requestBytes_segmentOf u frame _ j (hH.trans_le (headerLen_le _)) (h.txbuf ▸ he.txbuf) hbytes hj

theorem Underway.txseg (h : Underway s i frame reply tr k u) (he : Exchange s i.op frame reply tr) :
    u.txseg.readRange 0 u.sReg.toNat = some (segmentOf s.params.chunkMax frame k) := by
  obtain ⟨hin, -, hsize, -⟩ := h.registers
  obtain ⟨-, hheld, -⟩ := h.held
  obtain ⟨-, htxseg⟩ := hheld h.busy
  rw [htxseg, h.segmentStart, hsize, h.requestBytes_segmentOf he k hin]

/-- REM = S says that segment k is the last. -/
theorem Underway.remReg_eq_sReg (h : Underway s i frame reply tr k u) :
    u.remReg = u.sReg ↔ frame.length ≤ (k + 1) * s.params.chunkMax := by
  obtain ⟨hin, hrem, hsize, -⟩ := h.registers
  rw [← BitVec.toNat_inj, hrem, hsize, sizeOfSegment, Nat.add_one_mul]
  omega

theorem Underway.length_reply (h : Underway s i frame reply tr k u) (he : Exchange s i.op frame reply tr) :
    (reply k).length = u.sReg.toNat := by
  obtain ⟨hin, -, hsize, -⟩ := h.registers
  exact (he.length k hin).trans hsize.symm

/-- The three steps of the round trip of segment k: its reply is taken and settled, and the transaction goes on. -/
theorem Underway.run_of_reply (h : Underway s i frame reply tr k u) (he : Exchange s i.op frame reply tr) {v : State}
    (hv : continueOrComplete (afterReply s.params.chunkMax frame reply tr k u) = .next v) :
    Sys2Proof.core.run 3 u = .next v := by
  obtain ⟨hin, -, hsize, -⟩ := h.registers
  obtain ⟨mid, hsend, hrecv⟩ := he.answered k hin
  obtain ⟨hparams, -, -, htransport, -, hturns⟩ := h.surroundings
  rw [← hsize] at hsend hrecv
  refine run_of_roundTrip u _ (reply k) mid (tr (k + 1)) (hturns.trans he.turns) h.phase (h.txseg he) ?_ hrecv
    (h.length_reply he) (fun hq => he.marker k hin ?_) hv
  · rw [htransport, hparams]
    exact hsend
  · simpa [h.remReg_eq_sReg, h.cur, hparams, latchCur] using hq

/-- The replies to the segments up to segment k. -/
theorem Underway.length_received (h : Underway s i frame reply tr k u) (he : Exchange s i.op frame reply tr) (j : Nat)
    (hj : j ≤ k + 1) : (received reply j).length = min (j * s.params.chunkMax) frame.length := by
  obtain ⟨hin, -⟩ := h.registers
  exact Machine.length_received reply _ _ j fun l hl => he.length l ((Nat.mul_le_mul_right _ (by omega)).trans_lt hin)

/-- What a BURST_READ has staged once the reply to segment k is settled: the data bytes of all replies so far. -/
theorem Underway.staged_afterReply (h : Underway s i frame reply tr k u) (he : Exchange s i.op frame reply tr)
    (hop : i.op = .burstRead) :
    (afterReply s.params.chunkMax frame reply tr k u).stg.StartsWith
      ((received reply (k + 1)).drop (headerLen i.fields.mode)) := by
  obtain ⟨hin, -, -, hH, -⟩ := h.registers
  have hlen : (received reply k).length = k * s.params.chunkMax := by
    rw [h.length_received he k (Nat.le_succ k), min_eq_left hin.le]
  have hstg : (afterReply s.params.chunkMax frame reply tr k u).stg =
      u.stg.writeRange (k * s.params.chunkMax - headerLen i.fields.mode)
        ((reply k).drop (headerLen i.fields.mode - k * s.params.chunkMax)) := by
    rw [← h.segmentStart, ← hH]
    exact if_pos ((congrArg Cur.op h.cur).trans hop)
  have hnext := (h.staged hop).writeRange ((reply k).drop (headerLen i.fields.mode - k * s.params.chunkMax))
  rw [List.length_drop, hlen, ← hstg] at hnext
  rwa [received_succ, List.drop_append, hlen]

theorem Underway.surroundings_afterReply (h : Underway s i frame reply tr k u) :
    sameSurroundings (offered (segmentsBefore s.params.chunkMax frame (k + 1)) (tr (k + 1)) s)
      (afterReply s.params.chunkMax frame reply tr k u) := by
  obtain ⟨hparams, hlink, hhost, -, hwire, hturns⟩ := h.surroundings
  refine ⟨hparams, hlink, hhost, rfl, ?_, hturns⟩
  have hwire' : (afterReply s.params.chunkMax frame reply tr k u).wire = u.wire ++ [segmentOf s.params.chunkMax frame k] := rfl
  rw [hwire', hwire, offered_wire, offered_wire, List.append_assoc, segmentsBefore, segmentsBefore, List.range_succ,
    List.map_append, List.map_singleton]

/-- The registers once the reply to segment k is settled (40_transaction.md R151). -/
theorem Underway.registers_afterReply (h : Underway s i frame reply tr k u) (he : Exchange s i.op frame reply tr) :
    (afterReply s.params.chunkMax frame reply tr k u).kReg.toNat = k + 1 ∧
      (afterReply s.params.chunkMax frame reply tr k u).remReg.toNat = frame.length - (k + 1) * s.params.chunkMax ∧
      (afterReply s.params.chunkMax frame reply tr k u).chunksDone = (afterReply s.params.chunkMax frame reply tr k u).kReg := by
  obtain ⟨hin, hrem, hsize, -, -, hchunks⟩ := h.registers
  have hleft : (afterReply s.params.chunkMax frame reply tr k u).remReg.toNat = u.remReg.toNat - u.sReg.toNat :=
    advance_remReg_toNat u (sReg_le_remReg u h.geometry h.busy)
  refine ⟨(kReg_succ_toNat u (h.legal he) h.geometry h.busy).trans (congrArg (· + 1) h.kReg), ?_, congrArg (· + 1#16) hchunks⟩
  rw [hleft, hrem, hsize, sizeOfSegment, Nat.add_one_mul]
  omega

/-- The bytes of the next segment, where there is one. -/
theorem Underway.requestBytes_afterReply (h : Underway s i frame reply tr k u) (he : Exchange s i.op frame reply tr)
    (hmore : (k + 1) * s.params.chunkMax < frame.length) :
    segmentSize (afterReply s.params.chunkMax frame reply tr k u) = sizeOfSegment s.params.chunkMax frame.length (k + 1) ∧
      requestBytes (afterReply s.params.chunkMax frame reply tr k u)
          (Machine.segmentStart (afterReply s.params.chunkMax frame reply tr k u))
          (segmentSize (afterReply s.params.chunkMax frame reply tr k u)) =
        some (segmentOf s.params.chunkMax frame (k + 1)) := by
  obtain ⟨hk, hrem, -⟩ := h.registers_afterReply he
  obtain ⟨hparams, -⟩ := h.surroundings_afterReply
  have hstart : Machine.segmentStart (afterReply s.params.chunkMax frame reply tr k u) = (k + 1) * s.params.chunkMax := by
    rw [Machine.segmentStart, hk, hparams]
    rfl
  have hsize : segmentSize (afterReply s.params.chunkMax frame reply tr k u) =
      sizeOfSegment s.params.chunkMax frame.length (k + 1) := by
    rw [segmentSize, hrem, hparams]
    rfl
  rw [hstart, hsize]
  exact ⟨rfl, h.requestBytes_segmentOf he (k + 1) hmore⟩

/-- A segment that is not the last: its round trip ends with the next one built (40_transaction.md R153). -/
theorem Underway.next (h : Underway s i frame reply tr k u) (he : Exchange s i.op frame reply tr)
    (hmore : (k + 1) * s.params.chunkMax < frame.length) :
    ∃ v : State, Sys2Proof.core.run 3 u = .next v ∧ Underway s i frame reply tr (k + 1) v := by
  obtain ⟨hk, hrem, -⟩ := h.registers_afterReply he
  obtain ⟨hsize, hbytes⟩ := h.requestBytes_afterReply he hmore
  obtain ⟨hgeom, hseg, hstg⟩ := h.held
  have hgoesOn : (afterReply s.params.chunkMax frame reply tr k u).remReg ≠ 0#16 := fun h0 => by
    rw [h0, BitVec.toNat_zero] at hrem
    omega
  have hheld := transactionHeld_nextSegment (reply k) _
    (issueReceive (offered [segmentOf s.params.chunkMax frame k] (tr (k + 1)) u)) (h.legal he)
    ⟨fun _ => hgeom h.busy, fun _ => hseg h.busy, fun _ => hstg h.busy⟩ rfl (h.length_reply he) hgoesOn hbytes
  have hrun := h.run_of_reply he
    ((continueOrComplete_of_rem _ hgoesOn).trans ((buildSegment_next _ _).mpr ⟨_, hbytes, rfl⟩))
  have hevent : BitVec.ofNat 16 (k + 1) = (afterReply s.params.chunkMax frame reply tr k u).kReg := by
    rw [← hk]
    simp
  refine ⟨_, hrun, h.surroundings_afterReply, rfl, hheld, h.cur, h.diag, hk, h.bytes, h.txbuf, h.rxbuf,
    h.staged_afterReply he, ?_⟩
  rw [segmentBuilt_events, exchangeEvents_succ, ← h.events, hevent, hsize]
  rfl

/-- The data byte of a READ, whose one reply is the whole of what is received. -/
theorem Underway.rdata_afterReply (h : Underway s i frame reply tr k u) (he : Exchange s i.op frame reply tr)
    (hlast : frame.length ≤ (k + 1) * s.params.chunkMax) (hop : i.op = .read) :
    (afterReply s.params.chunkMax frame reply tr k u).rxseg.read
        ((afterReply s.params.chunkMax frame reply tr k u).tReg.toNat - 1) =
      some ((received reply (k + 1)).getD (frame.length - 1) 0#8) := by
  obtain ⟨hwhole, hpos⟩ := sReg_eq_tReg_of_single u (h.legal he) h.geometry h.busy (h.remReg_eq_sReg.mpr hlast)
    (by rw [h.cur, latchCur, hop]; rfl)
  have hreply := h.length_reply he
  have hall := h.length_received he (k + 1) le_rfl
  rw [h.tReg] at hwhole hpos
  rw [min_eq_right hlast, received_succ, List.length_append] at hall
  have honly : received reply k = [] := List.eq_nil_of_length_eq_zero (by omega)
  have hbyte := replyReceived_read (reply k) (issueReceive (offered [segmentOf s.params.chunkMax frame k] (tr (k + 1)) u))
    (frame.length - 1) (by omega)
  rw [received_succ, honly, List.nil_append, ← hbyte, ← h.tReg]
  rfl

/-- The N data bytes of a BURST_READ, all of them staged. -/
theorem Underway.data_afterReply (h : Underway s i frame reply tr k u) (he : Exchange s i.op frame reply tr)
    (hlast : frame.length ≤ (k + 1) * s.params.chunkMax) (hop : i.op = .burstRead) :
    ((received reply (k + 1)).drop (headerLen i.fields.mode)).length = i.fields.n.toNat ∧
      (afterReply s.params.chunkMax frame reply tr k u).stg.readRange 0 i.fields.n.toNat =
        some ((received reply (k + 1)).drop (headerLen i.fields.mode)) := by
  obtain ⟨-, -, -, -, hframe, -⟩ := h.registers
  have hn : ((received reply (k + 1)).drop (headerLen i.fields.mode)).length = i.fields.n.toNat := by
    rw [List.length_drop, h.length_received he (k + 1) le_rfl, min_eq_right hlast, hframe, frameLen, hop]
    exact Nat.add_sub_cancel_left ..
  have hread := (h.staged_afterReply he hop).readRange
  rw [hn] at hread
  exact ⟨hn, hread⟩

/-- The commit after the last reply (40_transaction.md R152). -/
theorem Underway.complete_afterReply (h : Underway s i frame reply tr k u) (he : Exchange s i.op frame reply tr)
    (hlast : frame.length ≤ (k + 1) * s.params.chunkMax) :
    ∃ rx, complete (afterReply s.params.chunkMax frame reply tr k u) =
        .next (finish (if i.op = .read then (received reply (k + 1)).getD (frame.length - 1) 0#8 else 0#8)
          { afterReply s.params.chunkMax frame reply tr k u with rxbuf := rx }) ∧
      (i.op = .burstRead →
        (∀ j < i.fields.n.toNat, rx.read j = (received reply (k + 1))[headerLen i.fields.mode + j]?) ∧
          ∀ j, i.fields.n.toNat ≤ j → rx.read j = s.rxbuf.read j) ∧
      (i.op ≠ .burstRead → rx = s.rxbuf) := by
  have hcur : (afterReply s.params.chunkMax frame reply tr k u).cur = latchCur i.op i.fields := h.cur
  have hrx : (afterReply s.params.chunkMax frame reply tr k u).rxbuf = s.rxbuf := h.rxbuf
  have hop : (afterReply s.params.chunkMax frame reply tr k u).cur.op = i.op := congrArg Cur.op hcur
  cases hi : i.op with
  | write | burstWrite =>
    refine ⟨s.rxbuf, ?_, nofun, fun _ => rfl⟩
    rw [if_neg nofun, ← hrx]
    exact (complete_next _ _).mpr (.inl ⟨by simp [hop, hi], rfl⟩)
  | read =>
    refine ⟨s.rxbuf, ?_, nofun, fun _ => rfl⟩
    rw [if_pos rfl, ← hrx]
    exact (complete_next _ _).mpr (.inr (.inl ⟨hop.trans hi, _, h.rdata_afterReply he hlast hi, rfl⟩))
  | burstRead =>
    obtain ⟨hn, hread⟩ := h.data_afterReply he hlast hi
    refine ⟨s.rxbuf.writeRange 0 ((received reply (k + 1)).drop (headerLen i.fields.mode)), ?_,
      fun _ => ⟨fun j hj => ?_, fun j hj => ?_⟩, fun hne => absurd rfl hne⟩
    · rw [if_neg nofun, ← hrx]
      exact (complete_next _ _).mpr (.inr (.inr ⟨hop.trans hi, _, (congrArg _ (congrArg (·.n.toNat) hcur)).trans hread, rfl⟩))
    · rw [Mem.read_writeRange, if_pos (by omega), Nat.sub_zero, List.getElem?_drop]
    · exact Mem.read_writeRange_outside _ _ _ _ (.inr (by omega))

/-- The last segment: its round trip ends the transaction. -/
theorem Underway.last (h : Underway s i frame reply tr k u) (he : Exchange s i.op frame reply tr)
    (hlast : frame.length ≤ (k + 1) * s.params.chunkMax) :
    ∃ v : State, Sys2Proof.core.run 3 u = .next v ∧ Completed s i frame reply tr (k + 1) v := by
  obtain ⟨hk, hrem, hchunks⟩ := h.registers_afterReply he
  obtain ⟨rx, hcomplete, hread, hother⟩ := h.complete_afterReply he hlast
  have hdone : (afterReply s.params.chunkMax frame reply tr k u).remReg = 0#16 := by
    rw [← BitVec.toNat_inj, hrem, BitVec.toNat_zero]
    omega
  have hcount : (afterReply s.params.chunkMax frame reply tr k u).chunksDone = BitVec.ofNat 16 (k + 1) := by
    rw [hchunks, ← hk]
    simp
  have hdiag : (afterReply s.params.chunkMax frame reply tr k u).diag = maskedBit i.fields := h.diag
  refine ⟨_, h.run_of_reply he ((if_pos hdone).trans hcomplete), h.surroundings_afterReply, rfl, ?_, h.txbuf, hread, hother,
    h.events⟩
  rw [finish_resp, hdiag, hcount]

/-- From the k-th segment to the end. -/
theorem Underway.run_to_end (h : Underway s i frame reply tr k u) (he : Exchange s i.op frame reply tr) (j : Nat)
    (hj : k + 1 + j = segmentCount s.params.chunkMax frame.length) :
    ∃ v : State, Sys2Proof.core.run (3 * (j + 1)) u = .next v ∧ Completed s i frame reply tr (k + 1 + j) v := by
  have hc : 0 < s.params.chunkMax := by
    obtain ⟨⟨hC, -⟩, -⟩ := he.legal
    omega
  induction j generalizing k u with
  | zero => exact h.last he ((segmentCount_le _ _ _ hc).mp hj.ge)
  | succ j ih =>
    obtain ⟨v, hv, hnext⟩ := h.next he ((lt_segmentCount _ _ _ hc).mp (by omega))
    obtain ⟨w, hw, hend⟩ := ih hnext (by omega)
    have hcount : 3 * (j + 1 + 1) = 3 + 3 * (j + 1) := by omega
    rw [Nat.add_right_comm, Nat.add_assoc] at hend
    exact ⟨w, hcount ▸ (run_add 3 _ hv).trans hw, hend⟩

end

/-! Acceptance. -/

/-- The logical frame of a command: its header, then the body (30_encoding.md R110-R114). -/
def commandFrame (i : Instr) (body : List Byte) : List Byte :=
  frameHeader i.op i.fields (frameLen i.op i.fields.mode i.fields.n) ++ body

theorem requestBytes_latch (i : Instr) (s : State) (body : List Byte)
    (hbody : bodyBytes (latch i.op i.fields s) 0 (bodyLen i.op i.fields.n) = some body) :
    requestBytes (latch i.op i.fields s) 0 (frameLen i.op i.fields.mode i.fields.n) = some (commandFrame i body) := by
  have hH := latch_hReg_toNat i.op i.fields s
  have h5 := headerLen_le i.fields.mode
  have hlen : frameLen i.op i.fields.mode i.fields.n = headerLen i.fields.mode + bodyLen i.op i.fields.n := rfl
  have hrest : frameLen i.op i.fields.mode i.fields.n - headerLen i.fields.mode = bodyLen i.op i.fields.n := by omega
  rw [requestBytes_zero _ _ (by omega) (by omega), hH, hrest, hbody, latch_hdr, header_eq_headerRegisters,
    take_headerRegisters _ _ _ (length_frameHeader ..)]
  rfl

theorem length_commandFrame (i : Instr) (body : List Byte) (hbody : body.length = bodyLen i.op i.fields.n) :
    (commandFrame i body).length = frameLen i.op i.fields.mode i.fields.n := by
  rw [commandFrame, List.length_append, length_frameHeader, hbody, frameLen]

/-- Segment 0 of a command's frame, as acceptance builds it. -/
theorem requestBytes_firstSegment (i : Instr) (s : State) (body : List Byte) (hlegal : s.params.legal) (htx : s.txbuf.wf)
    (hn : i.op.isBurst = true → i.fields.n.toNat ≤ s.params.bufSize)
    (hbody : bodyBytes (latch i.op i.fields s) 0 (bodyLen i.op i.fields.n) = some body) :
    requestBytes (latch i.op i.fields s) (segmentStart (latch i.op i.fields s)) (segmentSize (latch i.op i.fields s)) =
      some (segmentOf s.params.chunkMax (commandFrame i body) 0) := by
  have hT := latch_remReg_toNat i.op i.fields s (frameLen_lt i.op i.fields s.params hlegal hn)
  have hH := latch_hReg_toNat i.op i.fields s
  have h4 := four_le_headerLen i.fields.mode
  have h5 := headerLen_le i.fields.mode
  have hlen := length_commandFrame i body (length_of_bodyBytes _ _ _ _ hbody)
  have hpos : 0 < frameLen i.op i.fields.mode i.fields.n := by
    rw [frameLen]
    omega
  have hfirst := requestBytes_segmentOf (latch i.op i.fields s) (commandFrame i body) s.params.chunkMax 0 (by omega) htx
    (hlen.symm ▸ requestBytes_latch i s body hbody) (by omega)
  rw [hlen, Nat.zero_mul, sizeOfSegment, Nat.zero_mul, Nat.sub_zero] at hfirst
  rw [segmentStart_latch, segmentSize, hT]
  exact hfirst

/-- Acceptance of a command begins its exchange. -/
theorem step_of_presents (i : Instr) (rest : List HostOp) (s : State) (body : List Byte) (reply : Nat → List Byte)
    (tr : Nat → Transport) (hs : Presents i rest s)
    (hn : i.op.isBurst = true → 1 ≤ i.fields.n.toNat ∧ i.fields.n.toNat ≤ s.params.bufSize)
    (hbody : bodyBytes (latch i.op i.fields (clearProgress (popHost rest s))) 0 (bodyLen i.op i.fields.n) = some body)
    (he : Exchange (popHost rest s) i.op (commandFrame i body) reply tr) :
    ∃ u : State, step s = .next u ∧ Underway (popHost rest s) i (commandFrame i body) reply tr 0 u := by
  obtain ⟨hlegal, hidle, hlink, hturns, d, hprog, hdec⟩ := hs
  have hcheck : precheck i.op i.fields (popHost rest s) = none := precheck_eq_none _ _ _ hlink hn
  have hbytes := requestBytes_firstSegment i (clearProgress (popHost rest s)) body hlegal he.txbuf (fun hb => (hn hb).2) hbody
  have hT := latch_remReg_toNat i.op i.fields (clearProgress (popHost rest s))
    (frameLen_lt i.op i.fields s.params hlegal fun hb => (hn hb).2)
  have hframe := requestBytes_latch i (clearProgress (popHost rest s)) body hbody
  have hstep : step s = .next (segmentBuilt (segmentSize (latch i.op i.fields (clearProgress (popHost rest s))))
      (segmentOf s.params.chunkMax (commandFrame i body) 0) (latch i.op i.fields (clearProgress (popHost rest s)))) := by
    rw [step_of_free_issue s d rest i hidle hturns hprog hdec, exec_eq_accept, accept_of_passed _ _ (popHost rest s) hidle hcheck]
    exact (buildSegment_next _ _).mpr ⟨_, hbytes, rfl⟩
  have haccepted := segmentBuilt_latch_eq_accepted i.op i.fields (popHost rest s) _ _ (length_of_requestBytes _ _ _ _ hbytes)
  refine ⟨_, hstep, ⟨rfl, rfl, rfl, he.start, (List.append_nil _).symm, rfl⟩, rfl,
    transactionHeld_accept i.op i.fields _ _ hlegal hcheck hbytes, rfl, congrArg State.diag haccepted, rfl, ?_, rfl, rfl,
    fun _ => ?_, ?_⟩
  · rw [← hT] at hframe
    exact hframe
  · rw [received, List.range_zero, List.map_nil, List.flatten_nil, List.drop_nil]
    exact Mem.startsWith_nil _
  · refine (congrArg State.events haccepted).trans ?_
    simp [accepted, exchangeEvents, sizeOfSegment]

/-- A whole exchange: acceptance, and three steps for each segment. -/
theorem run_of_exchange (i : Instr) (rest : List HostOp) (s : State) (body : List Byte) (reply : Nat → List Byte)
    (tr : Nat → Transport) (hs : Presents i rest s)
    (hn : i.op.isBurst = true → 1 ≤ i.fields.n.toNat ∧ i.fields.n.toNat ≤ s.params.bufSize)
    (hbody : bodyBytes (latch i.op i.fields (clearProgress (popHost rest s))) 0 (bodyLen i.op i.fields.n) = some body)
    (he : Exchange (popHost rest s) i.op (commandFrame i body) reply tr) (n : Nat)
    (hcount : n = segmentCount s.params.chunkMax (frameLen i.op i.fields.mode i.fields.n)) :
    ∃ v : State, Sys2Proof.core.run (1 + 3 * n) s = .next v ∧
      Completed (popHost rest s) i (commandFrame i body) reply tr n v := by
  obtain ⟨u, hstep, hu⟩ := step_of_presents i rest s body reply tr hs hn hbody he
  rw [← length_commandFrame i body (length_of_bodyBytes _ _ _ _ hbody)] at hcount
  obtain ⟨⟨hC, -⟩, -⟩ := hs.legal
  obtain ⟨hin, -⟩ := hu.registers
  have hpos : 0 < n := hcount ▸ (lt_segmentCount _ _ 0 (by omega)).mpr hin
  obtain ⟨j, rfl⟩ := Nat.exists_eq_add_one.mpr hpos
  obtain ⟨v, hv, hend⟩ := hu.run_to_end he j ((by omega : 0 + 1 + j = j + 1).trans hcount)
  rw [Nat.zero_add, Nat.add_comm 1 j] at hend
  rw [Nat.add_comm 1]
  exact ⟨v, (run_succ_of_step hstep _).trans hv, hend⟩

/-! A TRANSPORT with the answers listed. -/

/-- Every body can be built, when TXBUF holds what a BURST_WRITE sends. -/
theorem exists_bodyBytes (i : Instr) (s : State) (htx : s.txbuf.wf)
    (hwritten : i.op = .burstWrite → ∀ j < i.fields.n.toNat, s.txbuf.read j ≠ none) :
    ∃ body, bodyBytes (latch i.op i.fields s) 0 (bodyLen i.op i.fields.n) = some body := by
  cases i with
  | write f | read f | burstRead f => exact ⟨_, rfl⟩
  | burstWrite f =>
    refine Option.ne_none_iff_exists'.mp (Mem.readRange_of_read s.txbuf 0 _ htx fun j hj => ?_)
    rw [Nat.zero_add]
    exact hwritten rfl j hj

theorem received_getD (replies : List (List Byte)) : received (fun k => replies.getD k []) replies.length = replies.flatten := by
  have hall : (List.range replies.length).map (fun k => replies.getD k []) = replies :=
    List.ext_getElem (by simp) fun k _ hk => by simp [hk]
  rw [received, hall]

/-- The TRANSPORT of `ExchangeCompletes` before segment k. -/
def listedTransport (size : Nat → Nat) (replies : List (List Byte)) (k : Nat) : Transport :=
  .free (((List.range replies.length).map (fun j => .count (size j))).drop k) ((replies.map .bytes).drop k)

theorem listedTransport_answers (size : Nat → Nat) (replies : List (List Byte)) (c k n : Nat) (seg : List Byte)
    (hk : k < replies.length) :
    ∃ mid, (listedTransport size replies k).onSend c seg = some (.count (size k), mid) ∧
      mid.onRecv n = some (.bytes (replies.getD k []), listedTransport size replies (k + 1)) := by
  have hsends : ((List.range replies.length).map (fun j => SendAnswer.count (size j))).drop k =
      .count (size k) :: ((List.range replies.length).map (fun j => SendAnswer.count (size j))).drop (k + 1) := by
    rw [List.drop_eq_getElem_cons (by simpa using hk)]
    simp
  have hrecvs : (replies.map RecvAnswer.bytes).drop k =
      .bytes (replies.getD k []) :: (replies.map RecvAnswer.bytes).drop (k + 1) := by
    rw [List.drop_eq_getElem_cons (by simpa using hk)]
    simp [hk]
  refine ⟨_, by rw [listedTransport, hsends]; rfl, ?_⟩
  rw [hrecvs]
  rfl

/-- Settles O58: the listed answers are an exchange, whose replies one after the other are the bytes of the list. -/
theorem exchangeCompletes : Obligations.ExchangeCompletes := by
  intro s i d rest replies c t n hc ht hcount hlegal hidle hlink hturns htx hprog hdec hn hwritten hreplies hlength hmarker htrans
  subst hc ht
  obtain ⟨body, hbody⟩ := exists_bodyBytes i (clearProgress (popHost rest s)) htx hwritten
  have hframe := length_commandFrame i body (length_of_bodyBytes _ _ _ _ hbody)
  have hC : 0 < s.params.chunkMax := by
    obtain ⟨⟨h6, -⟩, -⟩ := hlegal
    omega
  have hin (k : Nat) (hk : k * s.params.chunkMax < (commandFrame i body).length) : k < n := by
    rw [hcount]
    exact (lt_segmentCount _ _ _ hC).mpr (hframe ▸ hk)
  have he : Exchange (popHost rest s) i.op (commandFrame i body) (fun k => replies.getD k [])
      (listedTransport (sizeOfSegment s.params.chunkMax (frameLen i.op i.fields.mode i.fields.n)) replies) := by
    refine ⟨hlegal, hturns, htx, ?_, fun k hk => ?_, fun k hk => ?_, fun k hk hq => ?_⟩
    · rw [popHost_transport, htrans, listedTransport, List.drop_zero, List.drop_zero, hreplies]
    · rw [hframe]
      exact listedTransport_answers _ replies _ k _ _ (hreplies ▸ hin k hk)
    · rw [hframe]
      exact hlength k (hin k hk)
    · have hlast : (commandFrame i body).length ≤ (k + 1) * s.params.chunkMax ↔ k + 1 = n := by
        have hlt := hin k hk
        rw [← segmentCount_le _ _ _ hC, hframe, ← hcount]
        omega
      exact hmarker k (hin k hk) (by simpa [hlast] using hq)
  obtain ⟨v, hv, hend⟩ :=
    run_of_exchange i rest s body _ _ ⟨hlegal, hidle, hlink, hturns, d, hprog, hdec⟩ hn hbody he n hcount
  obtain ⟨⟨-, -, hhost, htransport, hwire, -⟩, hphase, hresp, htxbuf, hcommit, hrx, hevents⟩ := hend
  have hall : received (fun k => replies.getD k []) n = replies.flatten := hreplies ▸ received_getD replies
  have hdone : listedTransport (sizeOfSegment s.params.chunkMax (frameLen i.op i.fields.mode i.fields.n)) replies n =
      .free [] [] := by
    simp [listedTransport, ← hreplies]
  rw [hall, hframe] at hresp
  rw [hframe] at hevents
  rw [hall] at hcommit
  rw [offered_transport, hdone] at htransport
  refine ⟨v, hv, hphase, hresp, hevents, ?_, htransport, hhost, htxbuf, hcommit, hrx⟩
  rw [hwire, offered_wire, List.length_append, segmentsBefore, List.length_map, List.length_range, popHost_wire]

end Sys2Proof.Machine

/-! Bursts against the reference peer in step and without faults (20_memory.md R76, R77, R80, R81): the peer follows a frame of any
number of segments, and a BURST_READ brings back what a BURST_WRITE left (42_burst.md R208). -/

namespace Sys2Proof.Machine

open Sys2Proof.Config Sys2Proof.Safety

/-! The peer inside a frame. -/

/-- `frame` is a whole burst frame, as the peer reads its header (20_memory.md R77). -/
structure IsBurstFrame (frame : List Byte) : Prop where
  kind  : frameKind (frame.take 5) = 3 ∨ frameKind (frame.take 5) = 4
  total : frameTotal (frame.take 5) = frame.length
  body  : frameHeaderLen (frame.take 5) < frame.length

/-- The peer waits for segment k of `frame`. -/
structure Peer.AtSegment (c : Nat) (frame : List Byte) (k : Nat) (p : Peer) : Prop where
  faults : p.faults = []
  pos    : p.pos = k * c
  head   : k ≠ 0 → p.head = frame.take 5

/-- The peer after segment k of `frame`, once the reply to it has been read. -/
def Peer.afterSegment (c : Nat) (frame : List Byte) (k : Nat) (p : Peer) : Peer :=
  { p.offeredNext.effect (frame.take 5) (segmentOf c frame k) with
    head  := frame.take 5
    reply := none
    pos   := nextPos (k * c) (sizeOfSegment c frame.length k) frame.length }

/-- The reply to segment k of `frame`. -/
def Peer.segmentReply (c : Nat) (frame : List Byte) (k : Nat) (p : Peer) : List Byte :=
  p.offeredNext.replyTo (frame.take 5) (segmentOf c frame k)

theorem frameHeaderLen_le (head : List Byte) : 1 ≤ frameHeaderLen head ∧ frameHeaderLen head ≤ 5 := by
  unfold frameHeaderLen
  split <;> decide

section

variable {c k : Nat} {frame : List Byte} {p : Peer}

/-- The peer takes the header bytes from the frame's first segment. -/
theorem Peer.AtSegment.headFor (h : p.AtSegment c frame k) (hc : 6 ≤ c) :
    p.offeredNext.headFor (segmentOf c frame k) = frame.take 5 := by
  have hpos : p.offeredNext.pos = k * c := h.pos
  rw [Peer.headFor, hpos]
  by_cases hk : k = 0
  · rw [hk, Nat.zero_mul, if_pos rfl, segmentOf, Nat.zero_mul, List.drop_zero, List.take_take, min_eq_left (by omega)]
  · rw [if_neg (Nat.mul_ne_zero hk (by omega))]
    exact h.head hk

/-- The segments of the FRAMER are the ones the peer expects (42_burst.md R200). -/
theorem Peer.AtSegment.expects (h : p.AtSegment c frame k) (hc : 6 ≤ c) (hframe : IsBurstFrame frame)
    (hk : k * c < frame.length) : p.offeredNext.expects c (frame.take 5) (segmentOf c frame k) = true := by
  have hpos : p.offeredNext.pos = k * c := h.pos
  obtain ⟨-, hheader⟩ := frameHeaderLen_le (frame.take 5)
  have hbody := hframe.body
  have hkind : (frameKind (frame.take 5) == 3 || frameKind (frame.take 5) == 4) = true := by simpa using hframe.kind
  have hfirst : k * c ≠ 0 ∨ frameHeaderLen (frame.take 5) ≤ sizeOfSegment c frame.length k := by
    rw [sizeOfSegment]
    omega
  rw [Peer.expects, hpos, hframe.total, length_segmentOf, Bool.or_assoc, hkind]
  have hsize : sizeOfSegment c frame.length k = min c (frame.length - k * c) := rfl
  simp only [← hsize, beq_self_eq_true, hk, hfirst, decide_true, Bool.and_self, Bool.or_true]

/-- The peer takes segment k. -/
theorem Peer.AtSegment.onSend (h : p.AtSegment c frame k) (hc : 6 ≤ c) (hframe : IsBurstFrame frame) (hk : k * c < frame.length) :
    (Transport.peer p).onSend c (segmentOf c frame k) =
      some (.count (sizeOfSegment c frame.length k),
        .peer { p.afterSegment c frame k with reply := some (p.segmentReply c frame k) }) := by
  have hscript : sendFault p.segNo p.faults = none := by rw [h.faults]; rfl
  have hpos : p.offeredNext.pos = k * c := h.pos
  have harrive : p.offeredNext.arrive c (segmentOf c frame k) =
      { p.afterSegment c frame k with reply := some (p.segmentReply c frame k) } := by
    simp only [Peer.arrive, h.headFor hc, h.expects hc hframe hk, if_true, hpos, hframe.total, length_segmentOf]
    rfl
  have hsend : p.onSend c (segmentOf c frame k) =
      (.count (segmentOf c frame k).length, p.offeredNext.arrive c (segmentOf c frame k)) := by
    simp only [Peer.onSend, hscript]
    rfl
  rw [Transport.onSend, hsend, harrive, length_segmentOf]

theorem Peer.AtSegment.afterSegment_faults (h : p.AtSegment c frame k) : (p.afterSegment c frame k).faults = [] :=
  (Peer.effect_faults ..).trans h.faults

/-- It answers the receive with its reply. -/
theorem Peer.AtSegment.onRecv (h : p.AtSegment c frame k) (n : Nat) :
    (Transport.peer { p.afterSegment c frame k with reply := some (p.segmentReply c frame k) }).onRecv n =
      some (.bytes (p.segmentReply c frame k), .peer (p.afterSegment c frame k)) := by
  rw [Transport.onRecv, Peer.onRecv_of_no_fault _ _ (by simp [faultsAt, h.afterSegment_faults])]
  rfl

/-- After a segment that is not the last the peer waits for the next one. -/
theorem Peer.AtSegment.next (h : p.AtSegment c frame k) (hmore : (k + 1) * c < frame.length) :
    (p.afterSegment c frame k).AtSegment c frame (k + 1) := by
  refine ⟨h.afterSegment_faults, ?_, fun _ => rfl⟩
  have hpos : (p.afterSegment c frame k).pos = nextPos (k * c) (sizeOfSegment c frame.length k) frame.length := rfl
  rw [hpos, sizeOfSegment_of_middle c _ k hmore, nextPos, Nat.add_one_mul, if_neg]
  rw [Nat.add_one_mul] at hmore
  omega

/-- After the last segment the peer is at the start of a frame. -/
theorem Peer.AtSegment.last (h : p.AtSegment c frame k) (hlast : frame.length ≤ (k + 1) * c) :
    (p.afterSegment c frame k).inStep := by
  refine ⟨h.afterSegment_faults, if_pos ?_⟩
  rw [Nat.add_one_mul] at hlast
  rw [sizeOfSegment]
  omega

end

/-! The peer through a frame. -/

/-- The peer after the first k segments of `frame`. -/
def Peer.afterSegments (c : Nat) (frame : List Byte) (p : Peer) : Nat → Peer
  | 0 => p
  | k + 1 => (p.afterSegments c frame k).afterSegment c frame k

/-- The replies of the peer to the segments of `frame`. -/
def Peer.replies (c : Nat) (frame : List Byte) (p : Peer) (k : Nat) : List Byte :=
  (p.afterSegments c frame k).segmentReply c frame k

section

variable {c k : Nat} {frame : List Byte} {p : Peer}

theorem Peer.inStep.atSegment (hp : p.inStep) (k : Nat) (hk : k * c < frame.length) :
    (p.afterSegments c frame k).AtSegment c frame k := by
  induction k with
  | zero => exact ⟨hp.1, hp.2.trans (Nat.zero_mul c).symm, fun h => absurd rfl h⟩
  | succ k ih => exact (ih ((Nat.mul_le_mul_right c (Nat.le_succ k)).trans_lt hk)).next hk

/-- A frame has a last segment, which starts inside the frame and reaches its end. -/
theorem exists_last_segment (hc : 0 < c) (hlen : 0 < frame.length) :
    ∃ k, segmentCount c frame.length = k + 1 ∧ k * c < frame.length ∧ frame.length ≤ (k + 1) * c := by
  obtain ⟨k, hk⟩ := Nat.exists_eq_add_one.mpr ((lt_segmentCount c frame.length 0 hc).mpr (by omega))
  exact ⟨k, hk, (lt_segmentCount c _ k hc).mp (by omega), (segmentCount_le c _ _ hc).mp hk.le⟩

theorem Peer.inStep.afterFrame (hp : p.inStep) (hc : 0 < c) (hlen : 0 < frame.length) :
    (p.afterSegments c frame (segmentCount c frame.length)).inStep := by
  obtain ⟨k, hcount, hin, hlast⟩ := exists_last_segment hc hlen
  rw [hcount]
  exact (hp.atSegment k hin).last hlast

/-! A BURST_WRITE leaves its payload (20_memory.md R80). -/

theorem SameRegister.refl (h : List Byte) : SameRegister h h := ⟨rfl, fun _ => rfl, rfl⟩

/-- The first segment begins the register anew, and each later one is put behind it. -/
theorem Peer.AtSegment.seq_of_burstWrite (h : p.AtSegment c frame k) (hc : 6 ≤ c) (hkind : frameKind (frame.take 5) = 3)
    (hbody : frameHeaderLen (frame.take 5) < frame.length) (hk : k * c < frame.length) {head : List Byte}
    (hreg : SameRegister (frame.take 5) head) :
    (p.afterSegment c frame k).seq head =
      if k = 0 then (segmentOf c frame k).drop (frameHeaderLen (frame.take 5))
      else p.seq (frame.take 5) ++ segmentOf c frame k := by
  obtain ⟨-, hheader⟩ := frameHeaderLen_le (frame.take 5)
  have hpos : p.offeredNext.pos = k * c := h.pos
  have hsize : (segmentOf c frame k).length = min c (frame.length - k * c) := length_segmentOf c frame k
  have heffect : (p.afterSegment c frame k).seq head =
      (p.offeredNext.effect (frame.take 5) (segmentOf c frame k)).seq head := rfl
  rw [heffect, Peer.effect, hkind, if_neg (by decide), if_pos rfl, hpos]
  by_cases hfirst : k = 0
  · subst hfirst
    rw [Nat.zero_mul, if_pos rfl, if_pos rfl]
    exact Peer.seq_setSeq _ _ hreg (List.ne_nil_of_length_pos (by rw [List.length_drop]; omega))
  · rw [if_neg (Nat.mul_ne_zero hfirst (by omega)), if_neg hfirst]
    exact Peer.seq_setSeq _ _ hreg (List.ne_nil_of_length_pos (by rw [List.length_append]; omega))

theorem Peer.inStep.seq_of_burstWrite_segments (hp : p.inStep) (hc : 6 ≤ c) (hkind : frameKind (frame.take 5) = 3)
    (hbody : frameHeaderLen (frame.take 5) < frame.length) {head : List Byte} (hreg : SameRegister (frame.take 5) head) (k : Nat)
    (hk : k * c < frame.length) :
    (p.afterSegments c frame (k + 1)).seq head = (frame.take ((k + 1) * c)).drop (frameHeaderLen (frame.take 5)) := by
  induction k generalizing head with
  | zero =>
    refine ((hp.atSegment 0 hk).seq_of_burstWrite hc hkind hbody hk hreg).trans ?_
    rw [if_pos rfl, segmentOf, Nat.zero_mul, List.drop_zero, Nat.zero_add, Nat.one_mul]
  | succ k ih =>
    obtain ⟨-, hheader⟩ := frameHeaderLen_le (frame.take 5)
    have hstored := ih (SameRegister.refl _) ((Nat.mul_le_mul_right c (Nat.le_succ k)).trans_lt hk)
    have hle : c ≤ (k + 1) * c := Nat.le_mul_of_pos_left c (Nat.succ_pos k)
    refine ((hp.atSegment (k + 1) hk).seq_of_burstWrite hc hkind hbody hk hreg).trans ?_
    rw [if_neg (Nat.succ_ne_zero k), hstored, Nat.add_one_mul (k + 1), List.take_add,
      List.drop_append_of_le_length (by rw [List.length_take]; omega), segmentOf]

theorem Peer.inStep.seq_of_burstWrite (hp : p.inStep) (hc : 6 ≤ c) (hkind : frameKind (frame.take 5) = 3)
    (hbody : frameHeaderLen (frame.take 5) < frame.length) {h : List Byte} (hreg : SameRegister (frame.take 5) h) :
    (p.afterSegments c frame (segmentCount c frame.length)).seq h = frame.drop (frameHeaderLen (frame.take 5)) := by
  obtain ⟨k, hcount, hin, hlast⟩ := exists_last_segment (by omega : 0 < c) (by omega : 0 < frame.length)
  rw [hcount, hp.seq_of_burstWrite_segments hc hkind hbody hreg k hin, List.take_of_length_le hlast]

/-- The reply to a BURST_WRITE segment is the success marker and zeros. -/
theorem Peer.segmentReply_of_burstWrite (hkind : frameKind (frame.take 5) = 3) :
    p.segmentReply c frame k = [successMarker] ++ zeros (sizeOfSegment c frame.length k - 1) := by
  rw [Peer.segmentReply, Peer.replyTo, hkind, if_neg (by decide), if_neg (by decide), length_segmentOf]

/-! A BURST_READ is answered from the register (20_memory.md R81). -/

theorem Peer.seq_of_burstRead (hkind : frameKind (frame.take 5) = 4) (h : List Byte) (k : Nat) :
    (p.afterSegments c frame k).seq h = p.seq h := by
  induction k with
  | zero => rfl
  | succ k ih =>
    have heffect : (p.afterSegments c frame (k + 1)).seq h =
        ((p.afterSegments c frame k).offeredNext.effect (frame.take 5) (segmentOf c frame k)).seq h := rfl
    rw [heffect, Peer.effect, hkind, if_neg (by decide), if_neg (by decide)]
    exact ih

/-- The whole reply to a BURST_READ frame. -/
def Peer.burstReply (frame : List Byte) (p : Peer) : List Byte :=
  (burstReadReply (frameHeaderLen (frame.take 5)) frame.length (p.seq (frame.take 5))).take frame.length

theorem Peer.length_burstReply : (p.burstReply frame).length = frame.length := by
  simp only [Peer.burstReply, burstReadReply, zeros, List.length_take, List.length_append, List.length_replicate]
  omega

/-- Its segments are the replies to the segments of the frame. -/
theorem Peer.AtSegment.segmentReply_of_burstRead (h : p.AtSegment c frame k) (hkind : frameKind (frame.take 5) = 4)
    (htotal : frameTotal (frame.take 5) = frame.length) : p.segmentReply c frame k = segmentOf c (p.burstReply frame) k := by
  have hpos : p.offeredNext.pos = k * c := h.pos
  have hseq : p.offeredNext.seq = p.seq := rfl
  rw [Peer.segmentReply, Peer.replyTo, hkind, if_neg (by decide), if_pos rfl, hpos, hseq, htotal, length_segmentOf,
    sizeOfSegment, segmentOf, Peer.burstReply, List.drop_take, List.take_take]

theorem Peer.inStep.replies_of_burstRead (hp : p.inStep) (hkind : frameKind (frame.take 5) = 4)
    (htotal : frameTotal (frame.take 5) = frame.length) (hk : k * c < frame.length) :
    p.replies c frame k = segmentOf c (p.burstReply frame) k := by
  have hsame : (p.afterSegments c frame k).burstReply frame = p.burstReply frame := by
    rw [Peer.burstReply, Peer.burstReply, Peer.seq_of_burstRead hkind]
  rw [Peer.replies, (hp.atSegment k hk).segmentReply_of_burstRead hkind htotal, hsame]

theorem Peer.inStep.received_of_burstRead (hp : p.inStep) (hc : 0 < c) (hkind : frameKind (frame.take 5) = 4)
    (htotal : frameTotal (frame.take 5) = frame.length) :
    received (p.replies c frame) (segmentCount c frame.length) = p.burstReply frame := by
  have hsegments : (List.range (segmentCount c frame.length)).map (p.replies c frame) =
      (List.range (segmentCount c frame.length)).map (segmentOf c (p.burstReply frame)) :=
    List.map_congr_left fun k hk =>
      hp.replies_of_burstRead hkind htotal ((lt_segmentCount c _ k hc).mp (List.mem_range.mp hk))
  rw [received, hsegments, flatten_segmentOf, List.take_of_length_le]
  rw [Peer.length_burstReply]
  exact (segmentCount_le c _ _ hc).mp le_rfl

/-- The data bytes of the reply are those of the register. -/
theorem Peer.burstReply_getElem? (j : Nat) (hj : j < (p.seq (frame.take 5)).length)
    (hin : frameHeaderLen (frame.take 5) + j < frame.length) :
    (p.burstReply frame)[frameHeaderLen (frame.take 5) + j]? = (p.seq (frame.take 5))[j]? := by
  obtain ⟨hheader, -⟩ := frameHeaderLen_le (frame.take 5)
  have hfront : ([successMarker] ++ zeros (frameHeaderLen (frame.take 5) - 1)).length = frameHeaderLen (frame.take 5) := by
    simp [zeros]
    omega
  rw [Peer.burstReply, burstReadReply, List.getElem?_take_of_lt hin, List.append_assoc,
    List.getElem?_append_right (by omega), hfront, Nat.add_sub_cancel_left, List.getElem?_append_left hj]

/-! The exchange of a burst frame with the peer. -/

theorem Peer.AtSegment.length_segmentReply (h : p.AtSegment c frame k) (hframe : IsBurstFrame frame) (hc : 0 < c)
    (hk : k * c < frame.length) : (p.segmentReply c frame k).length = sizeOfSegment c frame.length k := by
  rcases hframe.kind with hkind | hkind
  · have hpos := sizeOfSegment_pos c frame.length k hc hk
    rw [Peer.segmentReply_of_burstWrite hkind, List.length_append, zeros, List.length_replicate, List.length_singleton]
    omega
  · rw [h.segmentReply_of_burstRead hkind hframe.total, length_segmentOf, Peer.length_burstReply]

end

/-- Against a peer in step every segment of a burst frame is taken, and its reply passes its check. -/
theorem exchange_with_peer (s : State) (op : Op) (frame : List Byte) (p : Peer) (hlegal : s.params.legal) (hturns : s.turns = [])
    (htx : s.txbuf.wf) (htrans : s.transport = .peer p) (hp : p.inStep) (hframe : IsBurstFrame frame)
    (hop : op = .burstRead ∨ frameKind (frame.take 5) = 3) :
    Exchange s op frame (p.replies s.params.chunkMax frame) (fun k => .peer (p.afterSegments s.params.chunkMax frame k)) := by
  have ⟨⟨hC, _⟩, _⟩ := hlegal
  refine ⟨hlegal, hturns, htx, htrans, fun k hk => ?_, fun k hk => ?_, fun k hk hq => ?_⟩
  · have hat := hp.atSegment k hk
    exact ⟨_, hat.onSend hC hframe hk, hat.onRecv _⟩
  · exact (hp.atSegment k hk).length_segmentReply hframe (by omega) hk
  · rcases hop with rfl | hkind
    · nomatch hq
    · rw [Peer.replies, Peer.segmentReply_of_burstWrite hkind]
      rfl

/-! The header of a command's frame, as the peer reads it. -/

section

variable (i : Instr) (body : List Byte)

theorem byteAt_commandFrame (j : Nat) (hj : j < headerLen i.fields.mode) :
    byteAt ((commandFrame i body).take 5) j =
      (frameHeader i.op i.fields (frameLen i.op i.fields.mode i.fields.n)).getD j 0#8 := by
  have h5 := headerLen_le i.fields.mode
  have hlen := length_frameHeader i.op i.fields (frameLen i.op i.fields.mode i.fields.n)
  rw [byteAt, commandFrame, List.getD_eq_getElem?_getD, List.getD_eq_getElem?_getD, List.getElem?_take_of_lt (by omega),
    List.getElem?_append_left (by omega)]

theorem byteAt_zero_commandFrame : byteAt ((commandFrame i body).take 5) 0 = wireOpcode i.op i.fields.mode := by
  rw [byteAt_commandFrame i body 0 (by have := four_le_headerLen i.fields.mode; omega), frameHeader]
  cases i.fields.mode <;> rfl

theorem frameMultiplexed_commandFrame : frameMultiplexed ((commandFrame i body).take 5) = (i.fields.mode == .multiplexed) := by
  rw [frameMultiplexed, byteAt_zero_commandFrame]
  cases i.op <;> cases i.fields.mode <;> rfl

theorem frameKind_commandFrame : frameKind ((commandFrame i body).take 5) = i.op.code.toNat + 1 := by
  rw [frameKind, byteAt_zero_commandFrame]
  cases i.op <;> cases i.fields.mode <;> rfl

theorem frameHeaderLen_commandFrame : frameHeaderLen ((commandFrame i body).take 5) = headerLen i.fields.mode := by
  rw [frameHeaderLen, frameMultiplexed_commandFrame]
  cases i.fields.mode <;> rfl

theorem frameTotal_commandFrame (h : frameLen i.op i.fields.mode i.fields.n < 65536) :
    frameTotal ((commandFrame i body).take 5) = frameLen i.op i.fields.mode i.fields.n := by
  have h4 := four_le_headerLen i.fields.mode
  have hhi : byteAt ((commandFrame i body).take 5) 1 = BitVec.ofNat 8 (frameLen i.op i.fields.mode i.fields.n / 256) := by
    rw [byteAt_commandFrame i body 1 (by omega), frameHeader]
    cases i.fields.mode <;> rfl
  have hlo : byteAt ((commandFrame i body).take 5) 2 = BitVec.ofNat 8 (frameLen i.op i.fields.mode i.fields.n) := by
    rw [byteAt_commandFrame i body 2 (by omega), frameHeader]
    cases i.fields.mode <;> rfl
  rw [frameTotal, hhi, hlo, BitVec.toNat_ofNat, BitVec.toNat_ofNat]
  omega

theorem frameAddr_commandFrame : frameAddr ((commandFrame i body).take 5) = (i.fields.addr.extractLsb' 0 7).toNat := by
  have h4 := four_le_headerLen i.fields.mode
  have hbyte : byteAt ((commandFrame i body).take 5) (headerLen i.fields.mode - 1) =
      addressByte (latchCur i.op i.fields) := by
    rw [byteAt_commandFrame i body _ (by omega), frameHeader]
    cases i.fields.mode <;> rfl
  have hlow : (addressByte (latchCur i.op i.fields)).extractLsb' 0 7 = i.fields.addr.extractLsb' 0 7 :=
    BitVec.extractLsb'_append_eq_right
  rw [frameAddr, frameHeaderLen_commandFrame, hbyte, hlow]

/-- The frame of a burst command is one the peer takes. -/
theorem isBurstFrame_commandFrame (hop : i.op.isBurst = true) (hlt : frameLen i.op i.fields.mode i.fields.n < 65536)
    (hlen : body.length = bodyLen i.op i.fields.n) (hpos : 0 < body.length) : IsBurstFrame (commandFrame i body) := by
  have hframe := length_commandFrame i body hlen
  refine ⟨?_, (frameTotal_commandFrame i body hlt).trans hframe.symm, ?_⟩
  · rw [frameKind_commandFrame]
    cases i with
    | write f | read f => nomatch hop
    | burstWrite f => exact .inl rfl
    | burstRead f => exact .inr rfl
  · rw [frameHeaderLen_commandFrame, hframe, frameLen, ← hlen]
    omega

theorem drop_commandFrame : (commandFrame i body).drop (headerLen i.fields.mode) = body :=
  List.drop_left' (length_frameHeader ..)

end

/-- Commands with the same MODE, MUX and ADDR name the same register. -/
theorem sameRegister_commandFrame (i j : Instr) (body body' : List Byte) (hmode : j.fields.mode = i.fields.mode)
    (hmux : j.fields.mux = i.fields.mux) (haddr : j.fields.addr = i.fields.addr) :
    SameRegister ((commandFrame i body).take 5) ((commandFrame j body').take 5) := by
  refine ⟨?_, fun hm => ?_, ?_⟩
  · rw [frameMultiplexed_commandFrame, frameMultiplexed_commandFrame, hmode]
  · have hmultiplexed : i.fields.mode = .multiplexed := by
      rw [frameMultiplexed_commandFrame] at hm
      simpa using hm
    have hin : 3 < headerLen i.fields.mode := by rw [hmultiplexed]; decide
    rw [byteAt_commandFrame i body 3 hin, byteAt_commandFrame j body' 3 (hmode ▸ hin), frameHeader, frameHeader, hmode,
      hmultiplexed]
    exact hmux
  · rw [frameAddr_commandFrame, frameAddr_commandFrame, haddr]

/-! The two bursts. -/

/-- A burst command and its response handshake, with the peer in step. -/
theorem run_of_burst_with_peer (i : Instr) (rest : List HostOp) (s : State) (p : Peer) (body : List Byte) (n : Nat)
    (hs : Presents i (.takeResponse :: rest) s) (hop : i.op.isBurst = true) (htx : s.txbuf.wf)
    (hn : 1 ≤ i.fields.n.toNat ∧ i.fields.n.toNat ≤ s.params.bufSize) (htrans : s.transport = .peer p) (hp : p.inStep)
    (hbody : bodyBytes (latch i.op i.fields (clearProgress (popHost (.takeResponse :: rest) s))) 0 i.fields.n.toNat = some body)
    (hcount : n = segmentCount s.params.chunkMax (headerLen i.fields.mode + i.fields.n.toNat)) :
    ∃ (t : State) (x : Word), Sys2Proof.core.run (2 + 3 * n) s = .next t ∧ t.params = s.params ∧ t.linkUp = s.linkUp ∧
      t.phase = .idle ∧ t.turns = [] ∧ t.txbuf = s.txbuf ∧
      t.transport = .peer (p.afterSegments s.params.chunkMax (commandFrame i body) n) ∧
      t.host = ⟨rest, s.host.answers ++ [.response x]⟩ ∧ respResult x = 0#3 ∧
      (i.op = .burstRead → ∀ j < i.fields.n.toNat, t.rxbuf.read j =
        (received (p.replies s.params.chunkMax (commandFrame i body)) n)[headerLen i.fields.mode + j]?) := by
  have hbodyLen : bodyLen i.op i.fields.n = i.fields.n.toNat := (bodyLen_eq _ _).trans (if_pos hop)
  rw [← hbodyLen] at hbody hcount
  have hlen := length_of_bodyBytes _ _ _ _ hbody
  have hframe := isBurstFrame_commandFrame i body hop (frameLen_lt i.op i.fields s.params hs.legal fun _ => hn.2) hlen (by omega)
  have hchecked : i.op = .burstRead ∨ frameKind ((commandFrame i body).take 5) = 3 := by
    rw [frameKind_commandFrame]
    cases i with
    | write f | read f => nomatch hop
    | burstWrite f => exact .inr rfl
    | burstRead f => exact .inl rfl
  obtain ⟨v, hv, ⟨hparams, hlink, hhost, htransport, -, hturns⟩, hphase, hresp, htxbuf, hcommit, -, -⟩ :=
    run_of_exchange i _ s body _ _ hs (fun _ => hn) hbody
      (exchange_with_peer (popHost (.takeResponse :: rest) s) i.op _ p hs.legal hs.turns htx htrans hp hframe hchecked) n hcount
  have htaken := step_of_free_takeResponse v rest hphase (hturns.trans hs.turns) (congrArg HostAgent.program hhost)
  have hrun : Sys2Proof.core.run (2 + 3 * n) s = .next (respondAccept (popHost rest v)) := by
    rw [show 2 + 3 * n = 1 + 3 * n + 1 by omega]
    exact (run_add _ 1 hv).trans (run_succ_of_step htaken 0)
  refine ⟨_, v.resp, hrun, hparams, hlink, rfl, hturns.trans hs.turns, htxbuf,
    htransport, ?_, ?_, fun hread => (hcommit hread).1⟩
  · rw [respondAccept, enterIdle_host, answerHost_host, popHost_host, popHost_resp, hhost]
    rfl
  · rw [hresp, respResult_packResp]
    rfl

/-- A BURST_WRITE leaves its payload in every frame's register that is the one it names. -/
theorem Peer.inStep.seq_of_burstWrite_command {p : Peer} (hp : p.inStep) (c : Nat) (hc : 6 ≤ c) (f : Fields) (pay : List Byte)
    (hlen : pay.length = f.n.toNat) (hn : 1 ≤ f.n.toNat) {head : List Byte}
    (hreg : SameRegister ((commandFrame (.burstWrite f) pay).take 5) head) :
    (p.afterSegments c (commandFrame (.burstWrite f) pay)
      (segmentCount c (commandFrame (.burstWrite f) pay).length)).seq head = pay := by
  have hheader : frameHeaderLen ((commandFrame (.burstWrite f) pay).take 5) = headerLen f.mode :=
    frameHeaderLen_commandFrame (.burstWrite f) pay
  have hframe : (commandFrame (.burstWrite f) pay).length = headerLen f.mode + f.n.toNat :=
    length_commandFrame (.burstWrite f) pay hlen
  rw [hp.seq_of_burstWrite hc (frameKind_commandFrame _ _) (by omega) hreg, hheader]
  exact drop_commandFrame (.burstWrite f) pay

/-- The replies to a BURST_READ hold, after the header positions, what the register holds. -/
theorem Peer.inStep.received_of_burstRead_command {p : Peer} (hp : p.inStep) (c : Nat) (hc : 0 < c) (f : Fields) (body : List Byte)
    (hlen : body.length = f.n.toNat) (hlt : headerLen f.mode + f.n.toNat < 65536) (j : Nat) (hj : j < f.n.toNat)
    (hseq : f.n.toNat ≤ (p.seq ((commandFrame (.burstRead f) body).take 5)).length) :
    (received (p.replies c (commandFrame (.burstRead f) body))
        (segmentCount c (commandFrame (.burstRead f) body).length))[headerLen f.mode + j]? =
      (p.seq ((commandFrame (.burstRead f) body).take 5))[j]? := by
  have hheader : frameHeaderLen ((commandFrame (.burstRead f) body).take 5) = headerLen f.mode :=
    frameHeaderLen_commandFrame (.burstRead f) body
  have hframe : (commandFrame (.burstRead f) body).length = headerLen f.mode + f.n.toNat :=
    length_commandFrame (.burstRead f) body hlen
  have htotal := (frameTotal_commandFrame (.burstRead f) body hlt).trans hframe.symm
  rw [hp.received_of_burstRead hc (frameKind_commandFrame _ _) htotal, ← hheader]
  exact Peer.burstReply_getElem? j (by omega) (by omega)

/-- A BURST_WRITE and then a BURST_READ with the same operands but for WDATA, with their handshakes: both end OK, and RXBUF holds
what TXBUF held. -/
theorem run_of_burstWrite_then_burstRead (f : Fields) (w : Byte) (s : State) (p : Peer) (pay : List Byte) (n : Nat)
    (hs : Presents (.burstWrite f) [.takeResponse, .issue (encode (.burstRead { f with wdata := w })), .takeResponse] s)
    (htx : s.txbuf.wf) (hn : 1 ≤ f.n.toNat ∧ f.n.toNat ≤ s.params.bufSize) (htrans : s.transport = .peer p) (hp : p.inStep)
    (hpay : s.txbuf.readRange 0 f.n.toNat = some pay)
    (hcount : n = segmentCount s.params.chunkMax (headerLen f.mode + f.n.toNat)) :
    ∃ (u : State) (x y : Word), Sys2Proof.core.run (2 + 3 * n + (2 + 3 * n)) s = .next u ∧ finished u ∧
      u.host.answers = s.host.answers ++ [.response x, .response y] ∧ respResult x = 0#3 ∧ respResult y = 0#3 ∧
      ∀ j < f.n.toNat, u.rxbuf.read j = pay[j]? := by
  have ⟨⟨hC, _⟩, _, hbuf⟩ := hs.legal
  have h5 := headerLen_le f.mode
  have hfits : headerLen f.mode + f.n.toNat < 65536 := by omega
  have hlen : pay.length = f.n.toNat := Mem.length_of_readRange _ _ _ _ hpay
  have hwlen : (commandFrame (.burstWrite f) pay).length = headerLen f.mode + f.n.toNat :=
    length_commandFrame (.burstWrite f) pay hlen
  have hrlen : (commandFrame (.burstRead { f with wdata := w }) (List.replicate f.n.toNat fill)).length =
      headerLen f.mode + f.n.toNat := length_commandFrame (.burstRead { f with wdata := w }) _ List.length_replicate
  obtain ⟨t, x, ht, htparams, htlink, htidle, htturns, httx, httrans, hthost, hx, -⟩ :=
    run_of_burst_with_peer (.burstWrite f) _ s p pay n hs rfl htx hn htrans hp hpay hcount
  have hq := hp.afterFrame (c := s.params.chunkMax) (frame := commandFrame (.burstWrite f) pay) (by omega) (by omega)
  have hstored := hp.seq_of_burstWrite_command s.params.chunkMax hC f pay hlen hn.1
    (sameRegister_commandFrame _ (.burstRead { f with wdata := w }) pay (List.replicate f.n.toNat fill) rfl rfl rfl)
  have ht' : Presents (.burstRead { f with wdata := w }) [.takeResponse] t :=
    ⟨htparams ▸ hs.legal, htidle, htlink.trans hs.linkUp, htturns, _, congrArg HostAgent.program hthost, decodeInvertsEncode _⟩
  rw [hwlen, ← hcount] at hq hstored
  obtain ⟨u, y, hu, -, -, huidle, -, -, -, huhost, hy, hread⟩ :=
    run_of_burst_with_peer (.burstRead { f with wdata := w }) [] t _ (List.replicate f.n.toNat fill) n ht' rfl (httx ▸ htx)
      (htparams ▸ hn) httrans hq rfl (htparams ▸ hcount)
  rw [hthost, List.append_assoc] at huhost
  refine ⟨u, x, y, (run_add _ _ ht).trans hu, ⟨congrArg HostAgent.program huhost, huidle⟩,
    congrArg HostAgent.answers huhost, hx, hy, fun j hj => ?_⟩
  have hbytes := hq.received_of_burstRead_command s.params.chunkMax (by omega) { f with wdata := w }
    (List.replicate f.n.toNat fill) List.length_replicate hfits j hj (by rw [hstored, hlen])
  rw [hrlen, ← hcount, hstored] at hbytes
  rw [htparams] at hread
  exact (hread rfl j hj).trans hbytes

/-- Settles O60: the BURST_WRITE leaves its payload in the register that the BURST_READ names, and the replies to that hold the
register's bytes from the end of the header on. -/
theorem burstRoundTrip : Obligations.BurstRoundTrip := by
  intro s p m mux addr w w' n pay hlegal hidle hlink hturns htrans hfaults hpos hn1 hn2 htx hpay hprog
  rw [two_mul]
  exact run_of_burstWrite_then_burstRead ⟨m, mux, addr, w, n⟩ w' s p pay _
    ⟨hlegal, hidle, hlink, hturns, _, hprog, decodeInvertsEncode _⟩ htx ⟨hn1, hn2⟩ htrans ⟨hfaults, hpos⟩ hpay rfl

end Sys2Proof.Machine

/-! What entering FAILED records (60_exceptions.md R250), and what a step puts out on the transport port and on the diagnostic port
(40_transaction.md R146, 60_exceptions.md R262-R264). -/

namespace Sys2Proof.Machine

open Sys2Proof.Safety

/-- Settles O30: the fields of the packed word, and the event each RESULT lists. -/
theorem raiseRecordsFailure : Obligations.RaiseRecordsFailure := by
  intro r sub v s _
  refine ⟨rfl, respResult_packResp .., respDiag_packResp .., respSubcode_packResp .., respNackCode_packResp ..,
    respRdata_packResp .., respChunksDone_packResp .., ?_, ?_, ?_, ?_, rfl⟩
  · rintro rfl
    rfl
  · rintro rfl
    rfl
  · rintro rfl
    rfl
  · rintro (rfl | rfl) <;> exact List.append_nil _

/-! The records each entry emits. -/

/-- Only entries to FRAME_BUILT and to FAILED emit records. -/
theorem recordsEmitted_eq_nil (s t : State) (h : t.phase = s.phase ∨ t.phase ≠ .frameBuilt ∧ t.phase ≠ .failed) :
    recordsEmitted s t = [] := by
  unfold recordsEmitted
  split
  next => rfl
  next hne =>
    rcases h with h | ⟨hbuilt, hfailed⟩
    · exact absurd h.symm hne
    · cases hp : t.phase with
      | frameBuilt => exact absurd hp hbuilt
      | failed => exact absurd hp hfailed
      | idle | sent | awaitingReply | validated => rfl

/-- The one record of an entry to FAILED is that of the RESULT, and `failureEvents` lists its event. -/
theorem records_failureEvents (r : Result) (sub : BitVec 4) (v : Byte) (s : State) (hphase : s.phase ≠ .failed) :
    (failureEvents r sub v s.kReg).map DiagEvent.record = recordsEmitted s (raise r sub v s) := by
  have hsub : sub.setWidth 16 = 0x000#12 ++ sub := BitVec.setWidth_eq_append (by decide)
  have hcode : v.setWidth 16 = 0x00#8 ++ v := BitVec.setWidth_eq_append (by decide)
  rw [recordsEmitted, raise_phase, if_neg hphase]
  cases r <;> simp [failureEvents, Result.code, hsub, hcode]

/-- The records of an entry to FRAME_BUILT from a transaction under way: K and S. -/
theorem recordsEmitted_segmentBuilt_of_busy (n : Nat) (bs : List Byte) (s : State) (hphase : s.phase = .awaitingReply) :
    recordsEmitted s (segmentBuilt n bs s) = [(DiagEvent.frameBuilt s.kReg (BitVec.ofNat 16 n)).record] := by
  simp [recordsEmitted, hphase]

/-- The records of an acceptance: the raw address byte if its bit 7 was masked off, then K and S. -/
theorem recordsEmitted_segmentBuilt_latch (n : Nat) (bs : List Byte) (op : Op) (f : Fields) (s : State)
    (hphase : s.phase = .idle) :
    recordsEmitted s (segmentBuilt n bs (latch op f s)) =
      (if addrBit7 f = 1#1 then [(DiagEvent.addrMasked f.addr).record] else []) ++
        [(DiagEvent.frameBuilt 0#16 (BitVec.ofNat 16 n)).record] := by
  have hraw : addrBit7 f = 1#1 → f.addr.setWidth 16 = 0x00#8 ++ (1#1 ++ f.addr.extractLsb' 0 7) := by
    intro hbit
    rw [← hbit, addrBit7, BitVec.extractLsb'_append_extractLsb']
    exact BitVec.setWidth_eq_append (by decide)
  rw [recordsEmitted]
  by_cases hbit : addrBit7 f = 1#1
  · simp [hphase, hbit, hraw hbit, latchCur]
  · simp [hphase, hbit]

/-! The ports over each operation. -/

/-- From `s` to `t` nothing goes to the TRANSPORT, and the history of the diagnostic port grows by the records of that step. -/
def PutsOut (s t : State) : Prop :=
  t.wire = s.wire ∧ ∃ new, t.events = s.events ++ new ∧ new.map DiagEvent.record = recordsEmitted s t

theorem putsOut_of_silent {s t : State} (hwire : t.wire = s.wire) (hevents : t.events = s.events)
    (hphase : t.phase = s.phase ∨ t.phase ≠ .frameBuilt ∧ t.phase ≠ .failed) : PutsOut s t :=
  ⟨hwire, [], by rw [hevents, List.append_nil], (recordsEmitted_eq_nil s t hphase).symm⟩

theorem putsOut_raise (r : Result) (sub : BitVec 4) (v : Byte) (s : State) (hphase : s.phase ≠ .failed) :
    PutsOut s (raise r sub v s) :=
  ⟨rfl, failureEvents r sub v s.kReg, rfl, records_failureEvents r sub v s hphase⟩

theorem buildSegment_putsOut (s t : State) (hphase : s.phase = .awaitingReply) (h : buildSegment s = .next t) : PutsOut s t := by
  obtain ⟨bs, -, rfl⟩ := (buildSegment_next s t).mp h
  exact ⟨rfl, _, rfl, (recordsEmitted_segmentBuilt_of_busy _ bs s hphase).symm⟩

theorem accept_putsOut (op : Op) (f : Fields) (s t : State) (h : accept op f s = .next t) : PutsOut s t := by
  rcases (accept_next op f s t).mp h with ⟨-, rfl⟩ | ⟨hidle, e, -, rfl⟩ | ⟨hidle, -, hb⟩
  · exact putsOut_of_silent rfl rfl (.inl rfl)
  · exact putsOut_raise e.1 e.2 0#8 (clearProgress s) (by simp [hidle])
  · obtain ⟨bs, -, rfl⟩ := (buildSegment_next _ t).mp hb
    refine ⟨rfl, _, List.append_assoc .., ?_⟩
    rw [List.map_append, apply_ite (List.map DiagEvent.record)]
    exact (recordsEmitted_segmentBuilt_latch _ bs op f (clearProgress s) hidle).symm

theorem present_putsOut (d : Word) (s t : State) (h : present d s = .next t) : PutsOut s t := by
  rcases (present_next d s t).mp h with ⟨i, -, ha⟩ | ⟨e, -, he⟩
  · exact accept_putsOut i.op i.fields s t ha
  · rcases (rejectDescriptor_next e s t).mp he with ⟨-, rfl⟩ | ⟨hidle, sub, -, rfl⟩
    · exact putsOut_of_silent rfl rfl (.inl rfl)
    · exact putsOut_raise .invalidArgument sub 0#8 (clearProgress s) (by simp [hidle])

theorem hostOp_putsOut (o : HostOp) (s t : State) (h : hostOp o s = some (.next t)) : PutsOut s t := by
  rcases (hostOp_next o s t).mp h with
    ⟨d, -, -, hd⟩ | ⟨-, -, rfl⟩ | ⟨i, v, -, hw⟩ | ⟨i, -, hr⟩ | ⟨-, rfl⟩ | ⟨-, rfl⟩
  · exact present_putsOut d s t hd
  · exact putsOut_of_silent rfl rfl (.inr ⟨nofun, nofun⟩)
  · obtain ⟨-, -, rfl⟩ := (hostWriteTx_next i v s t).mp hw
    exact putsOut_of_silent rfl rfl (.inl rfl)
  · obtain ⟨-, v, -, rfl⟩ := (hostReadRx_next i s t).mp hr
    exact putsOut_of_silent rfl rfl (.inl rfl)
  · exact putsOut_of_silent rfl rfl (.inl rfl)
  · exact putsOut_of_silent rfl rfl (.inl rfl)

theorem send_putsOut (ans : SendAnswer) (s : State) (hphase : s.phase = .frameBuilt) : PutsOut s (send ans s) := by
  rcases send_cases ans s with ⟨-, h⟩ | ⟨-, h⟩ <;> rw [h]
  · exact putsOut_of_silent rfl rfl (.inr ⟨nofun, nofun⟩)
  · exact putsOut_raise _ _ _ s (by simp [hphase])

theorem complete_putsOut (s t : State) (h : complete s = .next t) : PutsOut s t := by
  rcases (complete_next s t).mp h with ⟨-, rfl⟩ | ⟨-, d, -, rfl⟩ | ⟨-, bs, -, rfl⟩ <;>
  exact putsOut_of_silent rfl rfl (.inr ⟨nofun, nofun⟩)

theorem acceptSegment_putsOut (s t : State) (hphase : s.phase = .awaitingReply) (h : acceptSegment s = .next t) :
    PutsOut s t := by
  obtain ⟨u, hu, ht⟩ := (acceptSegment_next s t).mp h
  have hut : PutsOut u t := by
    have hphase' : u.phase = .awaitingReply := by
      rcases hu with ⟨-, rfl⟩ | ⟨-, r, -, rfl⟩ <;> exact hphase
    rcases ht with ⟨-, hc⟩ | ⟨-, hb⟩
    · exact complete_putsOut u t hc
    · exact buildSegment_putsOut u t hphase' hb
  rcases hu with ⟨-, rfl⟩ | ⟨-, r, -, rfl⟩ <;> exact hut

theorem receive_putsOut (ans : RecvAnswer) (s t : State) (hphase : s.phase = .awaitingReply) (h : receive ans s = .next t) :
    PutsOut s t := by
  have hfailed : s.phase ≠ .failed := by simp [hphase]
  rcases (receive_next ans s t).mp h with ⟨-, rfl⟩ | ⟨r, -, ⟨-, rfl⟩ | ⟨-, rfl⟩ | ⟨-, hv⟩⟩
  · exact putsOut_raise _ _ _ s hfailed
  · exact putsOut_raise _ _ _ s hfailed
  · exact putsOut_raise _ _ _ s hfailed
  · rcases (validate_next _ t).mp hv with ⟨-, ha⟩ | ⟨-, v, -, ⟨-, rfl⟩ | ⟨-, ha⟩⟩
    · exact acceptSegment_putsOut (replyReceived r s) t hphase ha
    · exact putsOut_raise _ _ v (replyReceived r s) hfailed
    · exact acceptSegment_putsOut (replyReceived r s) t hphase ha

/-- A step other than the reset: the TRANSPORT has taken TXSEG[0..S) in FRAME_BUILT, or nothing. -/
theorem step_putsOut (s t : State) (hreset : ¬ resetTurn s) (h : step s = .next t) :
    PutsOut s t ∨
      s.phase = .frameBuilt ∧ ∃ seg a, s.txseg.readRange 0 s.sReg.toNat = some seg ∧ PutsOut (offered [seg] a s) t := by
  rcases step_next s t h with rfl | ⟨o, rest, -, ho⟩ | ⟨-, rfl⟩ | htr | ⟨v, ts, -, rfl⟩ | ⟨ts, hts, -⟩
  · exact .inl (putsOut_of_silent rfl rfl (.inl rfl))
  · exact .inl (hostOp_putsOut o (popHost rest (afterTurn s)) t ho)
  · exact .inl (putsOut_of_silent rfl rfl (.inr ⟨nofun, nofun⟩))
  · rcases (transportStep_next _ t).mp htr with ⟨hphase, seg, a, hread, -, rfl⟩ | ⟨hphase, a, -, hr⟩
    · exact .inr ⟨hphase, seg, a.2, hread, send_putsOut a.1 (offered [seg] a.2 (afterTurn s)) hphase⟩
    · obtain ⟨hwire, hevents⟩ := receive_putsOut a.1 (offered [] a.2 (afterTurn s)) t hphase hr
      exact .inl ⟨hwire.trans (List.append_nil _), hevents⟩
  · exact .inl (putsOut_of_silent rfl rfl (.inl rfl))
  · exact absurd (by simp [resetTurn, hts]) hreset

/-- Settles O44: what the step puts out on both ports, operation by operation; a reset leaves the record of segments. -/
theorem outputPortsOnlyAppend : Obligations.OutputPortsOnlyAppend := by
  intro s t h
  by_cases hreset : resetTurn s
  · cases (step_of_resetTurn s hreset).symm.trans h
    exact ⟨fun hne => absurd rfl hne, fun hnot => absurd hreset hnot⟩
  · rcases step_putsOut s t hreset h with ⟨hwire, hevents⟩ | ⟨hphase, seg, a, hread, hwire, hevents⟩
    · exact ⟨fun hne => absurd hwire hne, fun _ => hevents⟩
    · exact ⟨fun _ => ⟨hphase, seg, hread, hwire⟩, fun _ => hevents⟩

end Sys2Proof.Machine

/-! Why a step stops, operation by operation (60_exceptions.md R260). -/

namespace Sys2Proof.Machine

open Sys2Proof.Config Sys2Proof.Safety

/-- The answer is no refusal, and the fault, if it is one, is one of `P`. -/
def StopsOnly (P : Fault → Prop) : Answer → Prop
  | .next _ => True
  | .fault r => P r
  | .refused _ => False

theorem StopsOnly.mono {P Q : Fault → Prop} {o : Answer} (h : StopsOnly P o) (hPQ : ∀ r, P r → Q r) : StopsOnly Q o := by
  cases o with
  | next => trivial
  | fault r => exact hPQ r h
  | refused => exact h

theorem stopsOnly_getD {P : Fault → Prop} {x : Option Answer} {y : Answer} (hx : ∀ o, x = some o → StopsOnly P o)
    (hy : StopsOnly P y) : StopsOnly P (x.getD y) := by
  cases x with
  | none => exact hy
  | some o => exact hx o rfl

/-! Building a segment. -/

/-- The fault of a BURST_WRITE in CUR, some byte of TXBUF[0..N) having no value (20_memory.md R66). -/
def PayloadFault (s : State) (r : Fault) : Prop :=
  r = .framerNoValue .txbuf ∧ s.cur.op = .burstWrite ∧ ∃ j < s.cur.n.toNat, s.txbuf.read j = none

/-- In a canonical array a range read that does not answer meets a byte with no value. -/
theorem Mem.exists_read_eq_none (m : Mem) (i n : Nat) (hm : m.wf) (h : m.readRange i n = none) :
    ∃ j < n, m.read (i + j) = none := by
  by_contra hall
  exact Mem.readRange_of_read m i n hm (fun j hj hread => hall ⟨j, hj, hread⟩) h

/-- The bytes that a segment of an open frame lacks are payload bytes: the frame ends where the payload does. -/
theorem buildSegment_stopsOnly (s : State) (htx : s.txbuf.wf) (hopen : frameOpen s) :
    StopsOnly (PayloadFault s) (buildSegment s) := by
  unfold buildSegment
  cases hbytes : requestBytes s (segmentStart s) (segmentSize s) with
  | some bs => trivial
  | none =>
    have hop := requestBytes_none_op s _ _ hbytes
    obtain ⟨hH, hT, -, -, -, hstart, hrem, -⟩ := hopen
    have hframe : s.tReg.toNat = s.hReg.toNat + s.cur.n.toNat := by rw [hT, hH, hop]; rfl
    have hsize := segmentSize_le_rem s
    have hhead := headerPart_length s (segmentStart s) (segmentSize s) (hH.trans_le (headerLen_le _))
    simp only [requestBytes, bodyBytes, hop, Option.map_eq_none_iff] at hbytes
    obtain ⟨j, hj, hread⟩ := Mem.exists_read_eq_none _ _ _ htx hbytes
    exact ⟨rfl, hop, _, by omega, hread⟩

/-! The TRANSPORT's step, in a transaction that meets the invariant. -/

section Transaction

variable {s : State} (hs : inv s) (hbusy : s.phase.busy = true)

include hs hbusy

/-- A segment in flight is not empty, so that its reply has a status byte. -/
theorem sReg_pos : 0 < s.sReg.toNat := by
  obtain ⟨⟨⟨hc, -⟩, -⟩, -, -, -, -, hgeom, -⟩ := hs
  obtain ⟨-, -, -, -, -, hstart, hrem, hsize, -⟩ := hgeom hbusy
  rw [hsize, segmentSize]
  omega

/-- After a reply the commit finds every byte it reads, so that only the build of the next segment can stop. -/
theorem continueOrComplete_stopsOnly (r : List Byte) (hlen : r.length = s.sReg.toNat) :
    StopsOnly (PayloadFault s) (continueOrComplete (replySettled r s)) := by
  obtain ⟨hlegal, ⟨htx, -, hstg, -⟩, -, -, -, hgeom, -, hstaged⟩ := hs
  have hle := sReg_le_remReg s hgeom hbusy
  have hmore := replySettled_remReg_ne_zero r s hle
  by_cases hend : s.sReg.toNat < s.remReg.toNat
  · rw [continueOrComplete_of_rem _ (hmore.mpr hend)]
    exact buildSegment_stopsOnly _ htx (frameOpen_replySettled r s hlegal hgeom hbusy hend)
  · have hlast : s.remReg = s.sReg := BitVec.eq_of_toNat_eq (by omega)
    obtain ⟨rx, hcomplete, -⟩ := complete_replySettled s r hlegal hstg hgeom hstaged hbusy hlen hlast
    rw [continueOrComplete, if_pos (replySettled_remReg_of_last r s hlast), hcomplete]
    trivial

theorem validate_stopsOnly (r : List Byte) (hlen : r.length = s.sReg.toNat) :
    StopsOnly (PayloadFault s) (validate (replyReceived r s)) := by
  have hstatus := replyReceived_read r s statusOffset (hlen ▸ sReg_pos hs hbusy)
  have haccepted := continueOrComplete_stopsOnly hs hbusy r hlen
  rw [← acceptSegment_replyReceived r s hlen] at haccepted
  unfold validate
  rw [hstatus]
  dsimp only
  split_ifs
  · trivial
  · exact haccepted
  · exact haccepted

theorem receive_stopsOnly (ans : RecvAnswer) : StopsOnly (PayloadFault s) (receive ans s) := by
  unfold receive
  cases ans with
  | err => trivial
  | bytes r =>
    dsimp only
    split_ifs with hshort hlong
    · trivial
    · trivial
    · exact validate_stopsOnly hs hbusy r (by omega)

end Transaction

/-- TXSEG[0..S) has been built, so the send does not stop. -/
theorem transportStep_stopsOnly (s : State) (hs : inv s) (o : Answer) (h : transportStep s = some o) :
    StopsOnly (fun r => s.phase = .awaitingReply ∧ PayloadFault s r) o := by
  unfold transportStep at h
  cases hphase : s.phase <;> simp only [hphase] at h
  case frameBuilt =>
    obtain ⟨-, -, -, -, -, -, hheld, -⟩ := hs
    obtain ⟨hbytes, hread⟩ := hheld (by rw [hphase]; rfl)
    obtain ⟨seg, hseg⟩ := Option.ne_none_iff_exists'.mp hbytes
    rw [transportSend, hread, hseg] at h
    dsimp only at h
    split at h
    · nomatch h
    · cases h
      trivial
  case awaitingReply =>
    unfold transportReceive at h
    split at h
    · nomatch h
    next a ha =>
      cases h
      have hs' : inv (offered [] a.2 s) := hs
      have hbusy : (offered [] a.2 s).phase.busy = true := by rw [offered_phase, hphase]; rfl
      exact (receive_stopsOnly hs' hbusy a.1).mono fun r hr => ⟨rfl, hr⟩
  all_goals nomatch h

/-! The HOST's ports. -/

theorem accept_stopsOnly (op : Op) (f : Fields) (s : State) (hlegal : s.params.legal) (htx : s.txbuf.wf) :
    StopsOnly (PayloadFault (latch op f (clearProgress s))) (accept op f s) := by
  unfold accept
  split
  · cases hcheck : precheck op f s with
    | some e => trivial
    | none => exact buildSegment_stopsOnly _ htx (frameOpen_latch op f s hlegal hcheck)
  · trivial

theorem present_stopsOnly (d : Word) (s : State) (hlegal : s.params.legal) (htx : s.txbuf.wf) :
    StopsOnly (fun r => r = .framerNoValue .txbuf ∧
      ∃ f, decode d = .ok (.burstWrite f) ∧ ∃ j < f.n.toNat, s.txbuf.read j = none) (present d s) := by
  unfold present
  cases hdec : decode d with
  | ok i =>
    dsimp only
    rw [exec_eq_accept]
    refine (accept_stopsOnly i.op i.fields s hlegal htx).mono fun r ⟨hr, hop, hmissing⟩ => ?_
    cases i with
    | burstWrite f => exact ⟨hr, f, rfl, hmissing⟩
    | write | read | burstRead => nomatch hop
  | error e =>
    dsimp only
    unfold rejectDescriptor
    split
    · cases e <;> trivial
    · trivial

/-- What a step from `s` stops for. -/
inductive StopCause (s : State) : Fault → Prop
  | laterSegment (hphase : s.phase = .awaitingReply) (hop : s.cur.op = .burstWrite)
      (hmissing : ∃ j < s.cur.n.toNat, s.txbuf.read j = none) : StopCause s (.framerNoValue .txbuf)
  | firstSegment (d : Word) (rest : List HostOp) (f : Fields) (hidle : s.phase = .idle)
      (hprog : s.host.program = .issue d :: rest) (hdec : decode d = .ok (.burstWrite f))
      (hmissing : ∃ j < f.n.toNat, s.txbuf.read j = none) : StopCause s (.framerNoValue .txbuf)
  | noValue (i : Half) (rest : List HostOp) (hprog : s.host.program = .readRx i :: rest)
      (hread : s.rxbuf.read i.toNat = none) : StopCause s .hostNoValue
  | writeIndex (i : Half) (v : Byte) (rest : List HostOp) (hprog : s.host.program = .writeTx i v :: rest)
      (hi : s.params.bufSize ≤ i.toNat) : StopCause s (.hostAccessError .txbuf)
  | readIndex (i : Half) (rest : List HostOp) (hprog : s.host.program = .readRx i :: rest)
      (hi : s.params.bufSize ≤ i.toNat) : StopCause s (.hostAccessError .rxbuf)

theorem hostOp_stopsOnly (s : State) (hs : inv s) (o : HostOp) (rest : List HostOp) (hprog : s.host.program = o :: rest)
    (ans : Answer) (h : hostOp o (popHost rest (afterTurn s)) = some ans) : StopsOnly (StopCause s) ans := by
  obtain ⟨hlegal, ⟨htx, -⟩, -⟩ := hs
  cases o with
  | issue d =>
    obtain ⟨hidle, hans⟩ := Option.ite_none_right_eq_some.mp h
    cases hans
    exact (present_stopsOnly d (popHost rest (afterTurn s)) hlegal htx).mono
      fun r ⟨hr, f, hdec, hmissing⟩ => hr ▸ .firstSegment d rest f hidle hprog hdec hmissing
  | writeTx i v =>
    rw [hostOp, hostWriteTx] at h
    split_ifs at h with hi hbusy
    · cases h
      exact .writeIndex i v rest hprog hi
    · cases h
      trivial
  | readRx i =>
    cases h
    rw [hostReadRx]
    split_ifs with hi
    · exact .readIndex i rest hprog hi
    · cases hread : (popHost rest (afterTurn s)).rxbuf.read i.toNat with
      | none => exact .noValue i rest hprog hread
      | some v => trivial
  | takeResponse =>
    obtain ⟨-, hans⟩ := Option.ite_none_right_eq_some.mp h
    cases hans
    trivial
  | readStatus | readResp =>
    cases h
    trivial

/-! The step. -/

theorem hostMove_stopsOnly (s : State) (hs : inv s) : StopsOnly (StopCause s) (hostMove (afterTurn s)) := by
  unfold hostMove
  cases hprog : (afterTurn s).host.program with
  | nil => trivial
  | cons o rest => exact stopsOnly_getD (hostOp_stopsOnly s hs o rest hprog) trivial

theorem framerMove_stopsOnly (P : Fault → Prop) (s : State) : StopsOnly P (framerMove s) := by
  unfold framerMove
  split <;> trivial

theorem step_stopsOnly (s : State) (hs : inv s) : StopsOnly (StopCause s) (step s) := by
  have htransport (o : Answer) (h : transportStep (afterTurn s) = some o) : StopsOnly (StopCause s) o :=
    (transportStep_stopsOnly (afterTurn s) hs o h).mono
      fun r ⟨hphase, hr, hop, hmissing⟩ => hr ▸ .laterSegment hphase hop hmissing
  cases hts : s.turns with
  | nil =>
    rw [step_of_noTurn s hts, freeMove]
    split
    · exact framerMove_stopsOnly _ _
    · exact stopsOnly_getD htransport (hostMove_stopsOnly s hs)
  | cons u ts =>
    cases u with
    | host => exact step_of_hostTurn s ts hts ▸ hostMove_stopsOnly s hs
    | framer => exact step_of_framerTurn s ts hts ▸ framerMove_stopsOnly _ _
    | transport => exact step_of_listedTransport s ts hts ▸ stopsOnly_getD htransport trivial
    | link v => exact step_of_linkTurn s v ts hts ▸ trivial
    | reset => exact step_of_resetTurn s (by simp [resetTurn, hts]) ▸ trivial

/-- Settles O52: each agent's part of the step stops for its own causes alone. -/
theorem stepStopsOnlyForMissingBytes : Obligations.StepStopsOnlyForMissingBytes := by
  intro s hs
  have hstops := step_stopsOnly s hs
  refine ⟨fun r h => by rwa [h] at hstops, fun r h => ?_⟩
  rw [h] at hstops
  cases hstops with
  | laterSegment hphase hop hmissing => exact .inl ⟨rfl, .inl ⟨hphase, hop, hmissing⟩⟩
  | firstSegment d rest f hidle hprog hdec hmissing => exact .inl ⟨rfl, .inr ⟨hidle, d, rest, f, hprog, hdec, hmissing⟩⟩
  | noValue i rest hprog hread => exact .inr (.inl ⟨rfl, i, rest, hprog, hread⟩)
  | writeIndex i v rest hprog hi => exact .inr (.inr (.inl ⟨rfl, i, v, rest, hprog, hi⟩))
  | readIndex i rest hprog hi => exact .inr (.inr (.inr ⟨rfl, i, rest, hprog, hi⟩))

end Sys2Proof.Machine

/-! The first step of a transaction, reset as a step, and the form of the byte arrays (40_transaction.md R141,
70_reset_and_hazards.md R280, 20_memory.md section 1). -/

namespace Sys2Proof.Machine

open Sys2Proof.Safety

/-- Settles O48: each case of the block writes an array by `Mem.write` or `Mem.writeRange`, which keep its form, or empties it. -/
theorem memoriesStayCanonical : Obligations.MemoriesStayCanonical := step_memoriesCanonical

/-- In IDLE the command port is ready, and a descriptor that decodes is its command's meaning. -/
theorem hostOp_issue_of_idle (d : Word) (i : Instr) (s : State) (hidle : s.phase = .idle) (hdec : decode d = .ok i) :
    hostOp (.issue d) s = some (exec i s) := by
  simp [hostOp, hidle, present, hdec]

/-- Settles O21: in IDLE neither the FRAMER nor the TRANSPORT has a step, so with no turn listed the HOST moves, as on its own turn. -/
theorem stepRunsPresentedCommand : Obligations.StepRunsPresentedCommand := by
  intro s d rest i hidle hprog hdec
  constructor
  · intro hturns
    exact step_of_free_issue s d rest i hidle hturns hprog hdec
  · intro ts hturns
    rw [← popHost_afterTurn s .host ts rest hturns]
    exact step_of_hostOp s ts _ rest _ hturns hprog (hostOp_issue_of_idle d i _ hidle hdec)

/-- Settles O33: the step of a reset turn is `applyReset`, whose fields are the reset values, on the state with that turn used up. -/
theorem resetFromAnyState : Obligations.ResetFromAnyState := by
  intro s ts hturns
  have hstep : step s = .next (applyReset (afterTurn s)) := step_of_resetTurn s (by simp [resetTurn, hturns])
  rw [afterTurn_of_cons s .reset ts hturns] at hstep
  exact ⟨_, hstep, rfl, rfl, rfl, workingCleared_reset, rfl, rfl, rfl, rfl, rfl, rfl, rfl, rfl, rfl, rfl⟩

end Sys2Proof.Machine
